-- ==== Sys2Proof/Word.lean ====
section
/-! DEFINITION. The one width the block moves: every datum is a byte (00_scope.md R8, 20_memory.md R66). -/

namespace Sys2Proof

/-- A byte, bits 7 (most significant) down to 0 (00_scope.md R10). -/
abbrev Byte := BitVec 8

end Sys2Proof
end

