-- ==== Sys2Proof/Config.lean ====
section
/-! DEFINITION. What one build of the block fixes: the configuration record of 00_scope.md R8, every parameter of it a field
(R4: claims at the documented value or for every value), and the two families of values the spec leaves free. -/

namespace Sys2Proof

/-- The configuration record (00_scope.md R8, 10_state.md R50). A `Nat` delay counts microseconds. The default of a field
is the value or default R8 gives, so `Config.default` is at the documented values; `N_CS`, `HAS_MISO`, `HAS_ASYNC`,
`CONFIG_TABLE` and `DISPON_CMD` are OPEN in R8 and their defaults here are the model's own (DESIGN CHOICE, unsafe, log
entry 1). -/
structure Config where
  /-- `N_CS`: how many chip-select lines share the clock and data lines. OPEN. -/
  nCs : Nat := 1
  /-- `CS_DISP`: the display's chip-select line. -/
  csDisp : Nat := 0
  /-- `HAS_MISO`: is there a data-in line. OPEN. -/
  hasMiso : Bool := true
  /-- `HAS_ASYNC`: is there a busy flag and a callback slot. OPEN. -/
  hasAsync : Bool := true
  /-- `HAS_PWR_GND`: is there a separate ground-rail enable. -/
  hasPwrGnd : Bool := true
  /-- `T_HALF`. -/
  tHalf : Nat := 1
  /-- `T_CS_SETUP`. -/
  tCsSetup : Nat := 5
  /-- `T_RAIL_SETTLE`. -/
  tRailSettle : Nat := 20
  /-- `T_RES_PULSE`. -/
  tResPulse : Nat := 3
  /-- `T_RES_RELEASE`. -/
  tResRelease : Nat := 3
  /-- `T_HV_SETTLE`. -/
  tHvSettle : Nat := 100000
  /-- `T_DISPON_SETTLE`. -/
  tDisponSettle : Nat := 100000
  /-- `CONFIG_TABLE`, run in bring-up step 7. OPEN; the bytes here are those of 95_test_vectors.md program P4. -/
  configTable : List Byte := [0x01, 0xAE, 0x02, 0xA0, 0x72, 0x00]
  /-- `DISPON_CMD`, sent in bring-up step 9. OPEN; the byte here is that of 95_test_vectors.md program P4. -/
  disponCmd : List Byte := [0xAF]
  /-- `RES_ACTIVE`: the level of `RES` that holds the controller in reset. -/
  resActive : Bool := false
  /-- `GND_ON`: the level of `PWR_GND` that turns the ground rail on. -/
  gndOn : Bool := true
  /-- `HV_ON`: the level of `PWR_HV` that turns the high-voltage rail on. -/
  hvOn : Bool := true
  /-- `COL_ADDR_REG`: the register address of the column-address command. -/
  colAddrReg : Byte := 0x15
  /-- `ROW_ADDR_REG`: the register address of the row-address command. -/
  rowAddrReg : Byte := 0x75
  /-- `COL_END`: the fixed right edge. No operation derives it from data (41_sequencer.md R177). -/
  colEnd : Byte := 95
  /-- `ROW_END`: the fixed bottom edge. -/
  rowEnd : Byte := 63
  /-- `CS_ACTIVE`: the asserted level of every chip-select line. -/
  csActive : Bool := false
  /-- `DC_DATA`: the level of `DC` in data mode. -/
  dcData : Bool := true
  /-- `DC_CMD`: the level of `DC` in command mode. -/
  dcCmd : Bool := false
deriving DecidableEq, Repr

/-- The configuration the state after reset carries: every field at its default. -/
def Config.default : Config := {}

/-- FREE VALUE: the level nobody has fixed that the n-th such `PinGet` reads (00_scope.md R14, 10_state.md R33,
93_implementation_defined.md U9 and U10). No body: nothing can be proved of a value. Log entry 3. -/
opaque Config.freeLevel : Nat → Bool

/-- FREE VALUE: the arbitrary `ctx` of the n-th `XFER_BLOCKING` (42_async.md R206). No body. Log entry 4. -/
opaque Config.freeContext : Nat → Nat

end Sys2Proof
end

