-- ==== Sys2Proof/Syntax.lean ====
section
/-! DEFINITION. The instructions of spec/opcode_table.json, one constructor a row, and the form in which each is spelled
(30_encoding.md R90: host operations, table records, wire commands, bits of a byte). -/

namespace Sys2Proof

/-- A transfer request, the operand of `XFER_START` and `XFER_BLOCKING` (42_async.md R202): a `WRITE` or a `READ`. -/
inductive Transfer where
  | write (buf : List Byte)
  | read (txByte : Byte) (n : Nat)
deriving DecidableEq, Repr

/-- A completion callback: a reference to a host continuation (10_state.md R40), here a number that names it. -/
abbrev Callback := Nat

/-- An opaque context value, never inspected (10_state.md R40). -/
abbrev Context := Nat

/-- One constructor per row of spec/opcode_table.json, in the table's order. -/
inductive Instr where
  /-- `BUS_INIT`, R122. -/
  | busInit
  /-- `CS_INIT k`, R123. -/
  | csInit (k : Nat)
  /-- `CS_ASSERT k`, R124. -/
  | csAssert (k : Nat)
  /-- `CS_RELEASE k`, R126. -/
  | csRelease (k : Nat)
  /-- `WRITE buf`, R130. -/
  | write (buf : List Byte)
  /-- `READ tx_byte, N`, R131. -/
  | read (txByte : Byte) (n : Nat)
  /-- `EXEC_TABLE T`, R164. -/
  | execTable (table : List Byte)
  /-- `DISP_INIT`, R172. -/
  | dispInit
  /-- `SEND x, y, pix`, R176. -/
  | send (x y : Byte) (pix : List Byte)
  /-- `XFER_START t, cb, ctx`, R202. -/
  | xferStart (t : Transfer) (cb : Option Callback) (ctx : Context)
  /-- `XFER_WAIT`, R205. -/
  | xferWait
  /-- `XFER_BLOCKING t`, R206. -/
  | xferBlocking (t : Transfer)
  /-- `INVALID`: an operation code that spells no operation, R104. -/
  | invalid (code : Byte)
  /-- `REGWR reg, v1, .., vn`, a table record, R166. -/
  | regwr (reg : Byte) (vals : List Byte)
  /-- `END`, the sentinel, R165. -/
  | endMark
  /-- `CMD`, a wire command, R98 and R161. -/
  | cmd (reg : Byte) (vals : List Byte)
  /-- `COLADDR s, e`, R174. -/
  | colAddr (first last : Byte)
  /-- `ROWADDR s, e`, R175. -/
  | rowAddr (first last : Byte)
  /-- `PIXDATA`, R100 and R176. -/
  | pixData (pix : List Byte)
  /-- `BYTE`, the eight bit times of one byte, R101 and R128. -/
  | byte (b : Byte)
deriving DecidableEq, Repr

/-- The typed values that travel beside a host operation code (30_encoding.md R102, R103). Each operation reads the
fields its row of R102 names; a field left out is zero, empty or none. -/
structure Operands where
  k : Nat := 0
  buf : List Byte := []
  txByte : Byte := 0
  n : Nat := 0
  table : List Byte := []
  x : Byte := 0
  y : Byte := 0
  pix : List Byte := []
  t : Transfer := .write []
  cb : Option Callback := none
  ctx : Context := 0
deriving DecidableEq, Repr

/-- How an instruction is spelled, by the formats of spec/opcode_table.json (R90). -/
inductive Encoded where
  /-- HOSTOP: an 8-bit code, typed operands beside it. -/
  | hostOp (code : Byte) (args : Operands)
  /-- TABLE_RECORD: the bytes of one record, or of the sentinel. -/
  | record (bytes : List Byte)
  /-- WIRE_COMMAND when `dc` is `DC_CMD`, WIRE_DATA when it is `DC_DATA` (R100): the bytes of one bracket. -/
  | wire (dc : Bool) (bytes : List Byte)
  /-- BIT_LEVEL: the bits of a byte in the order they cross the wire. -/
  | bits (bs : List Bool)
deriving DecidableEq, Repr

/-- Why bytes or bits spell no instruction. Host operation codes never fail: they answer `INVALID` (R104). -/
inductive DecodeError where
  /-- There is no byte where a length byte is expected (R92). -/
  | noLengthByte
  /-- A record's declared length runs past the last byte (R92). -/
  | recordRunsPastEnd
  /-- Bytes follow the one record (R93). -/
  | bytesAfterRecord
  /-- A wire command without its register address byte (R98). -/
  | noRegisterAddress
  /-- Not eight bits (R101). -/
  | notEightBits
deriving DecidableEq, Repr

end Sys2Proof
end

