-- ==== Sys2Proof/Decode.lean ====
section
/-! DEFINITION. From codes, bytes and bits to instructions (30_encoding.md), the encoder back, and the byte-order and
bit-order helpers both use. -/

namespace Sys2Proof

/-- Bit `i` of a byte (00_scope.md R10). -/
def bitOf (b : Byte) (i : Nat) : Bool := b.getLsbD i

/-- The bits of a byte as they cross the wire, most significant first (20_memory.md R65). -/
def byteBits (b : Byte) : List Bool :=
  [bitOf b 7, bitOf b 6, bitOf b 5, bitOf b 4, bitOf b 3, bitOf b 2, bitOf b 1, bitOf b 0]

/-- Shift one sampled bit into a byte: `(r << 1)[7:0] | s` (10_state.md R24, 40_transport.md R128). -/
def shiftIn (r : Byte) (s : Bool) : Byte := (r <<< 1) ||| BitVec.zeroExtend 8 (BitVec.ofBool s)

/-- The byte eight bits spell, first bit the most significant (R65, R131). -/
def bitsToByte (bs : List Bool) : Byte := bs.foldl shiftIn 0

/-! ### Table records (R92 to R96) -/

/-- One record from the front of a byte string, and the bytes after it (R95). -/
def decodeRecord : List Byte → Except DecodeError (Instr × List Byte)
  | [] => .error .noLengthByte
  | len :: rest =>
    if len = 0 then .ok (.endMark, rest)
    else match rest with
      | [] => .error .recordRunsPastEnd
      | reg :: more =>
        if more.length < len.toNat - 1 then .error .recordRunsPastEnd
        else .ok (.regwr reg (more.take (len.toNat - 1)), more.drop (len.toNat - 1))

/-- Is a sentinel reached, when `skip` bytes of the present record are still to be passed (R95)? -/
def sentinelAhead : Nat → List Byte → Bool
  | _, [] => false
  | 0, len :: rest => len == 0 || sentinelAhead len.toNat rest
  | skip + 1, _ :: rest => sentinelAhead skip rest

/-- A table is well formed when a sentinel stands on its decode path (R96). -/
def tableWellFormed (table : List Byte) : Bool := sentinelAhead 0 table

/-! ### Wire commands (R98 to R100) -/

/-- The bytes of `COLADDR s, e` (R99). -/
def colAddrBytes (cfg : Config) (first last : Byte) : List Byte := [cfg.colAddrReg, first, last]

/-- The bytes of `ROWADDR s, e` (R99). -/
def rowAddrBytes (cfg : Config) (first last : Byte) : List Byte := [cfg.rowAddrReg, first, last]

/-- A command is a register address byte and value bytes; the two address-window commands have names of their own (R98, R99). -/
def decodeCommand (cfg : Config) : List Byte → Except DecodeError Instr
  | [] => .error .noRegisterAddress
  | [reg, first, last] =>
    if reg = cfg.colAddrReg then .ok (.colAddr first last)
    else if reg = cfg.rowAddrReg then .ok (.rowAddr first last)
    else .ok (.cmd reg [first, last])
  | reg :: vals => .ok (.cmd reg vals)

/-! ### Host operations (R102 to R104) -/

/-- A host operation from its code and operands. Total: a code of no operation is `INVALID`, and so is a code of `XFER_*`
when `HAS_ASYNC` = 0 (R104). -/
def decodeHostOp (hasAsync : Bool) (code : Byte) (a : Operands) : Instr :=
  match code.toNat with
  | 0x01 => .busInit
  | 0x02 => .csInit a.k
  | 0x03 => .csAssert a.k
  | 0x04 => .csRelease a.k
  | 0x05 => .write a.buf
  | 0x06 => .read a.txByte a.n
  | 0x10 => .execTable a.table
  | 0x11 => .dispInit
  | 0x12 => .send a.x a.y a.pix
  | 0x20 => if hasAsync then .xferStart a.t a.cb a.ctx else .invalid code
  | 0x21 => if hasAsync then .xferWait else .invalid code
  | 0x22 => if hasAsync then .xferBlocking a.t else .invalid code
  | _ => .invalid code

/-- The instruction a spelling stands for, or the reason there is none. -/
def decode (cfg : Config) : Encoded → Except DecodeError Instr
  | .hostOp code args => .ok (decodeHostOp cfg.hasAsync code args)
  | .record bytes =>
    match decodeRecord bytes with
    | .ok (i, []) => .ok i
    | .ok (_, _ :: _) => .error .bytesAfterRecord
    | .error e => .error e
  | .wire dc bytes => if dc = cfg.dcData then .ok (.pixData bytes) else decodeCommand cfg bytes
  | .bits bs => if bs.length = 8 then .ok (.byte (bitsToByte bs)) else .error .notEightBits

/-- The spelling of a well-formed instruction, from the tables of R92, R98, R99, R101, R102 and R107. -/
def encode (cfg : Config) : Instr → Encoded
  | .busInit => .hostOp 0x01 {}
  | .csInit k => .hostOp 0x02 { k := k }
  | .csAssert k => .hostOp 0x03 { k := k }
  | .csRelease k => .hostOp 0x04 { k := k }
  | .write buf => .hostOp 0x05 { buf := buf }
  | .read txByte n => .hostOp 0x06 { txByte := txByte, n := n }
  | .execTable table => .hostOp 0x10 { table := table }
  | .dispInit => .hostOp 0x11 {}
  | .send x y pix => .hostOp 0x12 { x := x, y := y, pix := pix }
  | .xferStart t cb ctx => .hostOp 0x20 { t := t, cb := cb, ctx := ctx }
  | .xferWait => .hostOp 0x21 {}
  | .xferBlocking t => .hostOp 0x22 { t := t }
  | .invalid code => .hostOp code {}
  | .regwr reg vals => .record (BitVec.ofNat 8 (vals.length + 1) :: reg :: vals)
  | .endMark => .record [0]
  | .cmd reg vals => .wire cfg.dcCmd (reg :: vals)
  | .colAddr first last => .wire cfg.dcCmd (colAddrBytes cfg first last)
  | .rowAddr first last => .wire cfg.dcCmd (rowAddrBytes cfg first last)
  | .pixData pix => .wire cfg.dcData pix
  | .byte b => .bits (byteBits b)

/-! ### Words numbered as spec/opcode_table.json numbers them -/

/-- The `n` bytes of a word, the byte in its top bits first: the table puts a row's first byte leftmost, in the most
significant position (R10; COLADDR's 0x15 in bits 23..16). -/
def wordBytes : Nat → Nat → List Byte
  | 0, _ => []
  | n + 1, w => BitVec.ofNat 8 (w / 256 ^ n) :: wordBytes n w

/-- Lay a word of the opcode table out as the hardware takes it (DESIGN CHOICE, log entry 15): one zero byte is the
sentinel, any other single byte a host operation code whose operands are all zero, empty or none; two bytes begin a table
record (the values it still lacks are zeros); three bytes and more are a wire command. -/
def encodedOfTableWord (nbits w : Nat) : Encoded :=
  match (nbits + 7) / 8 with
  | 0 => .hostOp (BitVec.ofNat 8 w) {}
  | 1 => if BitVec.ofNat 8 w = 0 then .record [0] else .hostOp (BitVec.ofNat 8 w) {}
  | 2 =>
    match wordBytes 2 w with
    | len :: rest => .record (len :: rest ++ List.replicate (len.toNat - 1) 0)
    | [] => .record []
  | n => .wire Config.default.dcCmd (wordBytes n w)

/-- What the decoder reads from a word of the opcode table, under the configuration of the state after reset. -/
def decodeTableWord (nbits w : Nat) : Option Instr :=
  match decode Config.default (encodedOfTableWord nbits w) with
  | .ok i => some i
  | .error _ => none

end Sys2Proof
end

