-- ==== Sys2Proof/Machine/State.lean ====
section
/-! DEFINITION. The state of SPIM as plain data (10_state.md R21 to R47), the reasons a step can stop, and the state
after reset (R53). -/

namespace Sys2Proof.Machine

/-- A line, named by role (00_scope.md R11, 10_state.md R28). -/
inductive Line where
  | sck | mosi | miso
  | cs (k : Nat)
  | dc | res | pwrGnd | pwrHv
deriving DecidableEq, Repr

/-- `DIR[L]` (R29). -/
inductive Dir where
  /-- `IN`: high impedance. -/
  | input
  /-- `OUT`. -/
  | output
deriving DecidableEq, Repr

/-- `LAT[L]` (R30). -/
inductive Latch where
  /-- `U`: never written. -/
  | never
  /-- 0 (false) or 1 (true). -/
  | level (v : Bool)
deriving DecidableEq, Repr

/-- Direction and output latch of one line (R29, R30). -/
structure Pin where
  dir : Dir := .input
  lat : Latch := .never
deriving DecidableEq, Repr

/-- Every line. `MISO` and `PWR_GND` stand here whether or not the configuration has them; an operation touches one only
where it exists (R28, log entry 13). `cs` has `N_CS` entries. -/
structure Pins where
  sck : Pin := {}
  mosi : Pin := {}
  miso : Pin := {}
  dc : Pin := {}
  res : Pin := {}
  pwrGnd : Pin := {}
  pwrHv : Pin := {}
  cs : List Pin := []
deriving DecidableEq, Repr

/-- Causes of a fault (60_exceptions.md R222). -/
inductive Cause where
  | notInit | noBracket | busHeld | badRelease | noMiso | tableOverrun | dispNotInit | badCs | badOp
deriving DecidableEq, Repr

/-- `SESSION.RAIL` (R42). -/
inductive Rail where
  | unknown | off | gndOnly | full
deriving DecidableEq, Repr

/-- `SESSION.RESET_LINE` (R43). -/
inductive ResetLine where
  | unknown | asserted | released
deriving DecidableEq, Repr

/-- `SESSION.DC_MODE` (R44). -/
inductive DcMode where
  | unknown | cmd | data
deriving DecidableEq, Repr

/-- `SESSION.PHASE` (R47). -/
inductive Phase where
  | uninit | configured | on
deriving DecidableEq, Repr

/-- A known `SESSION.WIN` (R46). -/
structure Window where
  colStart : Byte
  colEnd : Byte
  rowStart : Byte
  rowEnd : Byte
deriving DecidableEq, Repr

/-- `SESSION` (R42 to R48). `win` is none for the spec's `unknown`. -/
structure Session where
  rail : Rail := .unknown
  resetLine : ResetLine := .unknown
  dcMode : DcMode := .unknown
  win : Option Window := none
  phase : Phase := .uninit
deriving DecidableEq, Repr

/-- An event of the trace (00_scope.md R13, 10_state.md R45). -/
inductive Event where
  | dirOut (l : Line)
  | dirIn (l : Line)
  | set (l : Line) (v : Bool)
  | get (l : Line) (v : Bool)
  | delay (us : Nat)
  | store (j : Nat) (v : Byte)
  | callback (ctx : Context)
deriving DecidableEq, Repr

/-- A byte space as (address, byte) pairs, addresses strictly rising. An address not listed has no value. -/
abbrev Memory := List Host.Cell

/-- The environment's side of `PinGet` (R14): the answers it has lined up, oldest first, and how many levels beyond them
it has been asked for, the index of the next free level. The MODEL's own field (log entry 3). -/
structure Env where
  answers : List Bool := []
  asked : Nat := 0
deriving DecidableEq, Repr

/-- What reaches SPIM from outside between two operations: an operation the host issues, or a reset (R51, R260). -/
inductive Input where
  | op (e : Encoded)
  | reset
deriving DecidableEq, Repr

/-- Why a step stops the machine. The spec's own faults are NOT these: they are states with `FAULT` = 1 (R226). -/
inductive Fault where
  /-- The table interpreter would fetch past the table (`EXEC_TABLE`, `DISP_INIT`). R167 says it cannot happen, since the
  table is checked whole before the first record. Safe: the machine stops where the spec has no behaviour. -/
  | fetchOutsideTable
deriving DecidableEq, Repr

/-- Why a step gives no meaning. -/
inductive Refusal where
  /-- An instruction without a meaning yet: raised by `exec` only. Safe. -/
  | notModelled (mnemonic : String)
  /-- `step`, when the configuration breaks R264 (U21: "not a configuration of this hardware"). Safe. -/
  | badConfiguration
  /-- `step`, at a reset while a bracket is open, which R261 says is not modelled (U7). Safe. -/
  | resetInOpenBracket
  /-- `step`, when what was placed for it to run spells no record, command or byte. No host operation code does this
  (R104). Safe. -/
  | undecodable (e : DecodeError)
deriving DecidableEq, Repr

/-- The state. Fields up to `rxbuf` are the spec's (R21, R63); `cfg` carries the configuration record (R22, log entry 1);
the last three are the model's own (log entries 3, 4, 5). -/
structure State where
  /-- The configuration record (R8). No operation writes it (R50). -/
  cfg : Config
  /-- `TXSR` (R23). -/
  txsr : Byte
  /-- `RXSR` (R24). -/
  rxsr : Byte
  /-- `BITCNT` (R25). -/
  bitcnt : BitVec 3
  /-- `BYTECNT` (R25). -/
  bytecnt : Nat
  /-- `TP` (R26). -/
  tp : Nat
  /-- `DIR[L]`, `LAT[L]` (R28 to R31). -/
  pins : Pins
  /-- `BUS_READY` (R35). -/
  busReady : Bool
  /-- `CS_READY[k]`, one for each line (R36). -/
  csReady : List Bool
  /-- `DISP_READY` (R37). -/
  dispReady : Bool
  /-- `SEL` (R38). -/
  sel : Option Nat
  /-- `BUSY` (R39). -/
  busy : Bool
  /-- `CB` (R40). -/
  cb : Option Callback
  /-- `CTX` (R40). -/
  ctx : Context
  /-- `FAULT` (R41). -/
  fault : Bool
  /-- `FCAUSE`, a code of R222 (R41). -/
  fcause : Nat
  /-- `SESSION` (R42 to R48). -/
  session : Session
  /-- `TRACE`, oldest event first (R45). -/
  trace : List Event
  /-- `RXBUF`, the caller's receive buffer (20_memory.md R63). -/
  rxbuf : Memory
  /-- The environment's answers (R14). -/
  env : Env
  /-- Index of the next free context (R206). -/
  ctxIdx : Nat
  /-- What the host has yet to issue, oldest first (R283). -/
  program : List Input
deriving DecidableEq, Repr

/-- The state after reset under a configuration: the table of R53, and for what R53 calls unspecified (the shifter
registers, `TP`, `CTX`, `FCAUSE`) zero (DESIGN CHOICE, unsafe, log entry 2). -/
def State.afterReset (cfg : Config) : State where
  cfg := cfg
  txsr := 0
  rxsr := 0
  bitcnt := 0
  bytecnt := 0
  tp := 0
  pins := { cs := List.replicate cfg.nCs {} }
  busReady := false
  csReady := List.replicate cfg.nCs false
  dispReady := false
  sel := none
  busy := false
  cb := none
  ctx := 0
  fault := false
  fcause := 0
  session := {}
  trace := []
  rxbuf := []
  env := {}
  ctxIdx := 0
  program := []

/-- The machine right after reset (R53, R260). -/
def State.reset : State := State.afterReset Config.default

end Sys2Proof.Machine
end

