-- ==== Sys2Proof/Machine/Ops.lean ====
section
/-! DEFINITION. The named operations over memory, lines, the environment and the trace (00_scope.md R12, R13), raising a
fault (60_exceptions.md R226), the reset event (70_reset_and_hazards.md R260), and the one shape every operation has
(40_transport.md R120). -/

namespace Sys2Proof.Machine

/-- The result of one instruction or one step. -/
abbrev Result := Host.Outcome State Fault Refusal

/-! ### Memory -/

/-- The byte at an address, none where nothing is listed. -/
def Memory.read : Memory → Nat → Option Byte
  | [], _ => none
  | (b, v) :: rest, a => if b = a then some v else Memory.read rest a

/-- Store one byte, keeping addresses strictly rising. -/
def Memory.write : Memory → Nat → Byte → Memory
  | [], a, v => [(a, v)]
  | (b, u) :: rest, a, v =>
    if a < b then (a, v) :: (b, u) :: rest
    else if a = b then (a, v) :: rest
    else (b, u) :: Memory.write rest a v

/-- Are all listed addresses above `a`, and strictly rising? -/
def Memory.risingFrom : Option Nat → Memory → Bool
  | _, [] => true
  | none, (b, _) :: rest => Memory.risingFrom (some b) rest
  | some a, (b, _) :: rest => decide (a < b) && Memory.risingFrom (some b) rest

/-- The canonical form: addresses strictly rising. -/
def Memory.wf (m : Memory) : Bool := Memory.risingFrom none m

/-! ### Lines -/

/-- Direction and latch of a line. -/
def Pins.get (p : Pins) : Line → Pin
  | .sck => p.sck
  | .mosi => p.mosi
  | .miso => p.miso
  | .cs k => p.cs.getD k {}
  | .dc => p.dc
  | .res => p.res
  | .pwrGnd => p.pwrGnd
  | .pwrHv => p.pwrHv

/-- Replace direction and latch of a line. -/
def Pins.put (p : Pins) (l : Line) (q : Pin) : Pins :=
  match l with
  | .sck => { p with sck := q }
  | .mosi => { p with mosi := q }
  | .miso => { p with miso := q }
  | .cs k => { p with cs := p.cs.set k q }
  | .dc => { p with dc := q }
  | .res => { p with res := q }
  | .pwrGnd => { p with pwrGnd := q }
  | .pwrHv => { p with pwrHv := q }

/-- Direction and latch of a line of the state. -/
def State.pin (s : State) (l : Line) : Pin := s.pins.get l

/-- Append an event to the trace (R45). -/
def State.emit (s : State) (e : Event) : State := { s with trace := s.trace ++ [e] }

/-- `PinOutput(L)` (R13). -/
def State.pinOutput (s : State) (l : Line) : State :=
  State.emit { s with pins := s.pins.put l { dir := .output, lat := (s.pins.get l).lat } } (.dirOut l)

/-- `PinInput(L)` (R13): the latch is kept (R31). -/
def State.pinInput (s : State) (l : Line) : State :=
  State.emit { s with pins := s.pins.put l { dir := .input, lat := (s.pins.get l).lat } } (.dirIn l)

/-- `PinSet(L, v)` (R13): writes the latch, whatever the direction (R31), and always appends its event (20_memory.md R69). -/
def State.pinSet (s : State) (l : Line) (v : Bool) : State :=
  State.emit { s with pins := s.pins.put l { dir := (s.pins.get l).dir, lat := .level v } } (.set l v)

/-- `Delay(t)` (R13, R15). -/
def State.delay (s : State) (us : Nat) : State := s.emit (.delay us)

/-! ### The environment -/

/-- A level nobody has fixed: the next free value (R33, U9). -/
def Env.free (e : Env) : Bool × Env := (Config.freeLevel e.asked, { e with asked := e.asked + 1 })

/-- The environment's next answer: the oldest lined up, or a free value (R14, U10). -/
def Env.draw (e : Env) : Bool × Env :=
  match e.answers with
  | b :: rest => (b, { e with answers := rest })
  | [] => e.free

/-- The wire level of a line, and the environment after it was read (R33). -/
def State.wire (s : State) (l : Line) : Bool × Env :=
  match (s.pins.get l).dir, (s.pins.get l).lat with
  | .output, .level v => (v, s.env)
  | .output, .never => s.env.free
  | .input, _ => s.env.draw

/-- The level `PinGet(L)` answers (R14). -/
def State.pinLevel (s : State) (l : Line) : Bool := (s.wire l).1

/-- `PinGet(L)` as it changes the state: its event, and an answer used up (R13, R14). The level is `pinLevel`. -/
def State.pinGet (s : State) (l : Line) : State :=
  State.emit { s with env := (s.wire l).2 } (.get l (s.pinLevel l))

/-- `MemWrite(RXBUF, j, 1, v)` (R12), which appends `Store(j, v)` (R45, R131). -/
def State.storeRx (s : State) (j : Nat) (v : Byte) : State :=
  State.emit { s with rxbuf := Memory.write s.rxbuf j v } (.store j v)

/-! ### Faults and reset -/

/-- The code of a cause (60_exceptions.md R222). -/
def Cause.code : Cause → Nat
  | .notInit => 1
  | .noBracket => 2
  | .busHeld => 3
  | .badRelease => 4
  | .noMiso => 5
  | .tableOverrun => 6
  | .dispNotInit => 7
  | .badCs => 8
  | .badOp => 9

/-- `raise <Cause>` (R226): `FAULT` and the first cause, and nothing else (R224). There is no vector and no return; only
reset clears it (R227). -/
def State.raise (s : State) (c : Cause) : State :=
  if s.fault then s else { s with fault := true, fcause := c.code }

/-- The reset event (R260, R261): SPIM's state as R53 says, no event appended. What lies outside SPIM stays: the
configuration (R50), the caller's buffer, the environment's answers, the host's program. The counter of free contexts is the
model's own and stays too, so that no free value is used twice. -/
def State.applyReset (s : State) : State :=
  { State.afterReset s.cfg with rxbuf := s.rxbuf, env := s.env, ctxIdx := s.ctxIdx, program := s.program }

/-! ### The shape of an operation -/

/-- What an operation's checks answer before its first event: go on, hold until `BUSY` = 0 (42_async.md R204), or raise a
cause (60_exceptions.md R226). -/
inductive Verdict where
  | go
  | hold
  | raise (c : Cause)
deriving DecidableEq, Repr

/-- Checks in priority order, each with the cause it raises: the first that fails is reported (R225). -/
def firstFailing : List (Bool × Cause) → Verdict
  | [] => .go
  | (true, c) :: _ => .raise c
  | (false, _) :: rest => firstFailing rest

/-- Hold first, then the checks (42_async.md R202). -/
def Verdict.afterHold (held : Bool) (v : Verdict) : Verdict := if held then .hold else v

/-- The checks first, then hold (41_sequencer.md R162: a sequencer operation's checks stand at its start). -/
def Verdict.beforeHold (v : Verdict) (held : Bool) : Verdict :=
  match v with
  | .go => if held then .hold else .go
  | .hold => .hold
  | .raise c => .raise c

/-- An operation (R120): nothing at all while `FAULT` = 1 (R227), else what its checks say. A held operation has no effect;
`step` keeps it for later (log entry 7). -/
def operate (v : Verdict) (body : State → State) (s : State) : Result :=
  if s.fault then .next s
  else match v with
    | .go => .next (body s)
    | .hold => .next s
    | .raise c => .next (s.raise c)

/-- An operation that runs a table: `none` from its body is a fetch outside the table, which R167 excludes. -/
def operateTable (v : Verdict) (body : State → Option State) (s : State) : Result :=
  if s.fault then .next s
  else match v with
    | .go =>
      match body s with
      | some t => .next t
      | none => .fault .fetchOutsideTable
    | .hold => .next s
    | .raise c => .next (s.raise c)

end Sys2Proof.Machine
end

