-- ==== Sys2Proof/Machine/Flags.lean ====
section
/-! DEFINITION. The status flags of 10_state.md R35 to R40: how each is read, written and tested. -/

namespace Sys2Proof.Machine

/-- `CS_READY[k]` (R36). -/
def State.isCsReady (s : State) (k : Nat) : Bool := s.csReady.getD k false

/-- `BUS_READY <- 1` (R35). -/
def State.setBusReady (s : State) : State := { s with busReady := true }

/-- `CS_READY[k] <- 1` (R36). -/
def State.setCsReady (s : State) (k : Nat) : State := { s with csReady := s.csReady.set k true }

/-- `DISP_READY <- 1` (R37). -/
def State.setDispReady (s : State) : State := { s with dispReady := true }

/-- `SEL <- v` (R38). -/
def State.setSel (s : State) (v : Option Nat) : State := { s with sel := v }

/-- `SEL != none`. -/
def State.busHeld (s : State) : Bool := s.sel.isSome

/-- Is a transfer in flight, so that another would hold (42_async.md R204)? `BUSY` exists only with `HAS_ASYNC` (R39). -/
def State.inFlight (s : State) : Bool := s.cfg.hasAsync && s.busy

/-- `BUSY <- 1; CB <- cb; CTX <- ctx` (R202). -/
def State.beginTransfer (s : State) (cb : Option Callback) (ctx : Context) : State :=
  { s with busy := true, cb := cb, ctx := ctx }

/-- `if CB != none: invoke CB with CTX` (R202, R203): an opaque event (R208). -/
def State.invokeCallback (s : State) : State :=
  match s.cb with
  | none => s
  | some _ => s.emit (.callback s.ctx)

/-- `BUSY <- 0` (R202). -/
def State.endTransfer (s : State) : State := { s with busy := false }

/-- The end of a transfer: the callback first, then the flag (R203). -/
def State.completeTransfer (s : State) : State := s.invokeCallback.endTransfer

end Sys2Proof.Machine
end

