-- ==== Sys2Proof/Machine/Operands.lean ====
section
/-! DEFINITION. The operand forms: a chip-select index (30_encoding.md R103), a record fetched from a table
(00_scope.md R12, 20_memory.md R61), a transfer request with its checks (40_transport.md R130, R131). -/

namespace Sys2Proof.Machine

/-- Is `k` no chip-select index: `k >= N_CS` (R103)? -/
def State.badCs (s : State) (k : Nat) : Bool := decide (s.cfg.nCs ≤ k)

/-- The record at `TP` of a table, fetched byte by byte from `TABLE(T)` (R12, R61, R95): none where a fetch would leave the
table. -/
def fetchRecord (table : List Byte) (tp : Nat) : Option Instr :=
  match decodeRecord (table.drop tp) with
  | .ok (i, _) => some i
  | .error _ => none

/-- The checks of a transfer request (R130; R131, which adds the third). -/
def transferVerdict (t : Transfer) (s : State) : Verdict :=
  match t with
  | .write _ => firstFailing [(!s.busReady, .notInit), (!s.busHeld, .noBracket)]
  | .read _ _ => firstFailing [(!s.busReady, .notInit), (!s.busHeld, .noBracket), (!s.cfg.hasMiso, .noMiso)]

/-- A host `WRITE` or `READ`: with `HAS_ASYNC` it is an `XFER_BLOCKING` and holds first (42_async.md R202, R206). -/
def blockingVerdict (t : Transfer) (s : State) : Verdict := (transferVerdict t s).afterHold s.inFlight

end Sys2Proof.Machine
end

