-- ==== Sys2Proof/Machine/Transfer.lean ====
section
/-! DEFINITION. The byte shifter and the transfers made of it (40_transport.md R128, R130, R131), and the transfer state
machine of ASYNC around them (42_async.md R202, R206). Bodies only: the checks stand in the operations. -/

namespace Sys2Proof.Machine

/-- `s <- PinGet(MISO); RXSR <- ((RXSR << 1)[7:0]) | s` (R128). -/
def State.sampleMiso (s : State) : State :=
  { s.pinGet .miso with rxsr := shiftIn s.rxsr (s.pinLevel .miso) }

/-- One bit time, for bit `i` of `TXSR` (R128, R129). -/
def State.bitTime (s : State) (i : Nat) : State :=
  let s := { s with bitcnt := BitVec.ofNat 3 i }
  let s := s.pinSet .sck false
  let s := s.pinSet .mosi (bitOf s.txsr i)
  let s := s.delay s.cfg.tHalf
  let s := if s.cfg.hasMiso then s.sampleMiso else s
  let s := s.pinSet .sck true
  s.delay s.cfg.tHalf

/-- The bit times of bits `n - 1` down to 0. -/
def State.shiftBits (s : State) : Nat → State
  | 0 => s
  | n + 1 => State.shiftBits (s.bitTime n) n

/-- `ShiftByte(tx)` (R128). The byte it returns is the `RXSR` of the state it ends in. -/
def State.shiftByte (s : State) (tx : Byte) : State := State.shiftBits { s with txsr := tx, rxsr := 0 } 8

/-- The loop of `WRITE` from byte `j` on (R130): the bytes of the buffer in ascending order (20_memory.md R62), the
received bytes dropped. -/
def State.writeBytes (s : State) (j : Nat) : List Byte → State
  | [] => s
  | b :: rest => State.writeBytes (State.shiftByte { s with bytecnt := j } b) (j + 1) rest

/-- One byte of `READ` (R131). -/
def State.readByte (s : State) (txByte : Byte) (j : Nat) : State :=
  let s := State.shiftByte { s with bytecnt := j } txByte
  s.storeRx j s.rxsr

/-- The loop of `READ` from byte `j` on, `n` bytes to go (R131). -/
def State.readBytes (s : State) (txByte : Byte) (j : Nat) : Nat → State
  | 0 => s
  | n + 1 => State.readBytes (s.readByte txByte j) txByte (j + 1) n

/-- The byte loop of a transfer (R130, R131). -/
def State.transferBytes (s : State) : Transfer → State
  | .write buf => s.writeBytes 0 buf
  | .read txByte n => s.readBytes txByte 0 n

/-- The body of `XFER_START t, cb, ctx` after its checks (R202). -/
def State.startTransfer (s : State) (t : Transfer) (cb : Option Callback) (ctx : Context) : State :=
  ((s.beginTransfer cb ctx).transferBytes t).completeTransfer

/-- The body of `XFER_BLOCKING t` after its checks (R206): no callback, an arbitrary context (a free value, log entry 4), and
an `XFER_WAIT` that finds `BUSY` = 0 and does nothing (R205). -/
def State.blockingTransfer (s : State) (t : Transfer) : State :=
  State.startTransfer { s with ctxIdx := s.ctxIdx + 1 } t none (Config.freeContext s.ctxIdx)

/-- The body of a `WRITE` or `READ`, wherever it is run: with `HAS_ASYNC` an `XFER_BLOCKING` of itself (R206). -/
def State.transfer (s : State) (t : Transfer) : State :=
  if s.cfg.hasAsync then s.blockingTransfer t else s.transferBytes t

end Sys2Proof.Machine
end

