-- ==== Sys2Proof/Machine/Async.lean ====
section
/-! DEFINITION. ASYNC (42_async.md): `XFER_START`, `XFER_WAIT`, `XFER_BLOCKING`; and `INVALID` (30_encoding.md R104). -/

namespace Sys2Proof.Machine

/-- `XFER_*` where `HAS_ASYNC` = 0 spells no operation (R104): `E_BAD_OP` before anything else (R225). -/
def needsAsync (v : Verdict) (s : State) : Verdict := if s.cfg.hasAsync then v else .raise .badOp

/-- The checks of `XFER_START` and `XFER_BLOCKING` (R202): hold, then the checks of the transfer. -/
def xferVerdict (t : Transfer) (s : State) : Verdict := needsAsync (blockingVerdict t s) s

/-- `XFER_WAIT` only holds (R205). -/
def xferWaitVerdict (s : State) : Verdict := needsAsync (Verdict.go.afterHold s.inFlight) s

/-- `XFER_START t, cb, ctx` (R202, R203). -/
def execXferStart (t : Transfer) (cb : Option Callback) (ctx : Context) (s : State) : Result :=
  operate (xferVerdict t s) (fun s => s.startTransfer t cb ctx) s

/-- `XFER_WAIT` (R205): no event, no state written. -/
def execXferWait (s : State) : Result := operate (xferWaitVerdict s) (fun s => s) s

/-- `XFER_BLOCKING t` (R206). -/
def execXferBlocking (t : Transfer) (s : State) : Result := operate (xferVerdict t s) (fun s => s.blockingTransfer t) s

/-- `INVALID` (R104): `E_BAD_OP`, whatever the code, without touching a pin. -/
def execInvalid (_code : Byte) (s : State) : Result := operate (.raise .badOp) (fun s => s) s

end Sys2Proof.Machine
end

