-- ==== Sys2Proof/Machine/Transport.lean ====
section
/-! DEFINITION. TRANSPORT (40_transport.md): `BUS_INIT`, `CS_INIT`, `CS_ASSERT`, `CS_RELEASE`, `WRITE`, `READ`, and the
bit-level `BYTE`. -/

namespace Sys2Proof.Machine

/-! ### Checks, in the order each rule lists them -/

/-- R122. -/
def busInitVerdict (s : State) : Verdict := firstFailing [(s.busHeld, .busHeld)]

/-- R123. -/
def csInitVerdict (k : Nat) (s : State) : Verdict := firstFailing [(s.badCs k, .badCs), (s.busHeld, .busHeld)]

/-- R124. -/
def csAssertVerdict (k : Nat) (s : State) : Verdict :=
  firstFailing [(s.badCs k, .badCs), (!s.busReady || !s.isCsReady k, .notInit), (s.busHeld, .busHeld)]

/-- R126. -/
def csReleaseVerdict (k : Nat) (s : State) : Verdict :=
  firstFailing [(s.badCs k, .badCs), (s.sel != some k, .badRelease)]

/-- A byte by itself makes the two checks of the `WRITE` it would stand in (R130; log entry 6), and not its hold: with
`HAS_ASYNC` = 1 it runs while `BUSY` = 1 too (DESIGN CHOICE, log entry 26). 42_async.md R204 and R206 speak of `WRITE` and
`READ` only. -/
def byteVerdict (b : Byte) (s : State) : Verdict := transferVerdict (.write [b]) s

/-! ### Bodies -/

/-- R122. -/
def State.busInit (s : State) : State :=
  let s := s.pinInput .sck
  let s := s.pinInput .mosi
  let s := if s.cfg.hasMiso then s.pinInput .miso else s
  s.setBusReady

/-- R123. -/
def State.csInit (s : State) (k : Nat) : State :=
  let s := s.pinSet (.cs k) (!s.cfg.csActive)
  let s := s.pinOutput (.cs k)
  s.setCsReady k

/-- R124. -/
def State.csAssert (s : State) (k : Nat) : State :=
  let s := s.pinSet .sck false
  let s := s.pinSet .mosi true
  let s := s.pinOutput .sck
  let s := s.pinOutput .mosi
  let s := s.pinSet (.cs k) s.cfg.csActive
  let s := s.delay s.cfg.tCsSetup
  s.setSel (some k)

/-- R126. -/
def State.csRelease (s : State) (k : Nat) : State :=
  let s := s.pinSet (.cs k) (!s.cfg.csActive)
  let s := s.pinInput .sck
  let s := s.pinInput .mosi
  s.setSel none

/-! ### Meanings -/

/-- `BUS_INIT` (R122). -/
def execBusInit (s : State) : Result := operate (busInitVerdict s) State.busInit s

/-- `CS_INIT k` (R123). -/
def execCsInit (k : Nat) (s : State) : Result := operate (csInitVerdict k s) (fun s => s.csInit k) s

/-- `CS_ASSERT k` (R124). -/
def execCsAssert (k : Nat) (s : State) : Result := operate (csAssertVerdict k s) (fun s => s.csAssert k) s

/-- `CS_RELEASE k` (R126). -/
def execCsRelease (k : Nat) (s : State) : Result := operate (csReleaseVerdict k s) (fun s => s.csRelease k) s

/-- `WRITE buf` (R130, R206). -/
def execWrite (buf : List Byte) (s : State) : Result :=
  operate (blockingVerdict (.write buf) s) (fun s => s.transfer (.write buf)) s

/-- `READ tx_byte, N` (R131, R206). -/
def execRead (txByte : Byte) (n : Nat) (s : State) : Result :=
  operate (blockingVerdict (.read txByte n) s) (fun s => s.transfer (.read txByte n)) s

/-- `BYTE` (R101, R128): the eight bit times of one byte. By itself it is no transfer: `BUSY`, `CB`, `CTX` and `BYTECNT` stay
(DESIGN CHOICE, log entry 26). -/
def execByte (b : Byte) (s : State) : Result := operate (byteVerdict b s) (fun s => s.shiftByte b) s

end Sys2Proof.Machine
end

