-- ==== Sys2Proof/Machine/Sequencer.lean ====
section
/-! DEFINITION. SEQUENCER (41_sequencer.md): the bracket, the table records `REGWR` and `END`, `EXEC_TABLE`, the wire
commands `CMD`, `COLADDR`, `ROWADDR`, `PIXDATA`, `DISP_INIT` and `SEND`. -/

namespace Sys2Proof.Machine

/-! ### The bracket -/

/-- `Bracket(bytes)` (R161): the bodies of `CS_ASSERT CS_DISP`, `WRITE bytes`, `CS_RELEASE CS_DISP`. -/
def State.bracket (s : State) (bytes : List Byte) : State :=
  let s := s.csAssert s.cfg.csDisp
  let s := s.transfer (.write bytes)
  s.csRelease s.cfg.csDisp

/-- A record or wire command by itself makes the checks of the `CS_ASSERT CS_DISP` it begins with, then holds for its `WRITE`
(R124, R161, R206; log entry 6). Inside `EXEC_TABLE`, `DISP_INIT` and `SEND` these checks are already discharged (R162). -/
def bracketVerdict (s : State) : Verdict := (csAssertVerdict s.cfg.csDisp s).beforeHold s.inFlight

/-! ### Tables -/

/-- `REGWR reg, v1, .., vn` (R166): one bracket, then `TP <- TP + 1 + L` with `L = n + 1`. Inside a table `TP` is the record's
offset. Outside one 10_state.md R26 gives `TP` no value; that a record run by itself advances from whatever `TP` last held is
the model's (DESIGN CHOICE, unsafe, log entry 25). -/
def State.regwr (s : State) (reg : Byte) (vals : List Byte) : State :=
  let s := s.bracket (reg :: vals)
  { s with tp := s.tp + 1 + (vals.length + 1) }

/-- `END` (R165): no event, no state; `TP` keeps the offset of the sentinel. -/
def State.endMark (s : State) : State := s

/-- The interpreter's loop (R164): fetch at `TP`, run a record, stop at the sentinel. `fuel` bounds the fetches (R229: at
most `len(T)`). None is a fetch outside the table, or no fuel: R167 excludes both (log entry 19). -/
def State.runTable (s : State) (table : List Byte) : Nat → Option State
  | 0 => none
  | fuel + 1 =>
    match fetchRecord table s.tp with
    | some (.regwr reg vals) => State.runTable (s.regwr reg vals) table fuel
    | some .endMark => some s.endMark
    | _ => none

/-- The body of `EXEC_TABLE T` (R164). -/
def State.execTable (s : State) (table : List Byte) : Option State :=
  State.runTable { s with tp := 0 } table table.length

/-- The checks of `EXEC_TABLE T` (R164). Its first bracket holds while a transfer is in flight; a table of the sentinel
alone has none (log entry 7). -/
def execTableVerdict (table : List Byte) (s : State) : Verdict :=
  (firstFailing
    [(!s.busReady || !s.isCsReady s.cfg.csDisp, .notInit), (s.busHeld, .busHeld),
      (!tableWellFormed table, .tableOverrun)]).beforeHold
    (s.inFlight && table.head? != some 0)

/-! ### Bring-up (R170 to R172) -/

/-- Step 1. -/
def State.dispStep1 (s : State) : State :=
  let s := s.busInit
  s.csInit s.cfg.csDisp

/-- Step 2. -/
def State.dispStep2 (s : State) : State :=
  let s := s.pinSet .dc s.cfg.dcCmd
  let s := s.pinOutput .dc
  { s with session := { s.session with dcMode := .cmd } }

/-- Step 3. -/
def State.dispStep3 (s : State) : State :=
  let s := s.pinSet .res (!s.cfg.resActive)
  let s := s.pinOutput .res
  { s with session := { s.session with resetLine := .released } }

/-- Step 4. -/
def State.dispStep4 (s : State) : State :=
  let s := s.pinSet .pwrHv (!s.cfg.hvOn)
  let s := s.pinOutput .pwrHv
  let s := if s.cfg.hasPwrGnd then (s.pinSet .pwrGnd s.cfg.gndOn).pinOutput .pwrGnd else s
  { s with session := { s.session with rail := .gndOnly } }

/-- Step 5. -/
def State.dispStep5 (s : State) : State := s.delay s.cfg.tRailSettle

/-- Step 6. -/
def State.dispStep6 (s : State) : State :=
  let s := s.pinSet .res s.cfg.resActive
  let s := { s with session := { s.session with resetLine := .asserted } }
  let s := s.delay s.cfg.tResPulse
  let s := s.pinSet .res (!s.cfg.resActive)
  let s := { s with session := { s.session with resetLine := .released } }
  s.delay s.cfg.tResRelease

/-- Step 7. -/
def State.dispStep7 (s : State) : Option State :=
  match s.execTable s.cfg.configTable with
  | some s => some { s with session := { s.session with phase := .configured, win := none } }
  | none => none

/-- Step 8. -/
def State.dispStep8 (s : State) : State :=
  let s := s.pinSet .pwrHv s.cfg.hvOn
  let s := { s with session := { s.session with rail := .full } }
  s.delay s.cfg.tHvSettle

/-- Step 9. -/
def State.dispStep9 (s : State) : State :=
  let s := s.bracket s.cfg.disponCmd
  let s := s.delay s.cfg.tDisponSettle
  let s := { s with session := { s.session with phase := .on } }
  s.setDispReady

/-- The body of `DISP_INIT` (R172): the nine steps in order. -/
def State.dispInit (s : State) : Option State :=
  match s.dispStep1.dispStep2.dispStep3.dispStep4.dispStep5.dispStep6.dispStep7 with
  | some s => some s.dispStep8.dispStep9
  | none => none

/-- The checks of `DISP_INIT` (R172); its brackets hold while a transfer is in flight (log entry 7). -/
def dispInitVerdict (s : State) : Verdict :=
  (firstFailing [(s.busHeld, .busHeld), (!tableWellFormed s.cfg.configTable, .tableOverrun)]).beforeHold s.inFlight

/-! ### Window commands and pixel data -/

/-- `COLADDR s, e` (R174): one bracket of its three bytes. -/
def State.colAddr (s : State) (first last : Byte) : State := s.bracket (colAddrBytes s.cfg first last)

/-- `ROWADDR s, e` (R175). -/
def State.rowAddr (s : State) (first last : Byte) : State := s.bracket (rowAddrBytes s.cfg first last)

/-- `PIXDATA` (R176, R100): one bracket of the bytes; it does not write `DC` (R178). -/
def State.pixData (s : State) (pix : List Byte) : State := s.bracket pix

/-- `PinSet(DC, v)` with the session's record of it (R44, R176). -/
def State.setDc (s : State) (v : Bool) (mode : DcMode) : State :=
  let s := s.pinSet .dc v
  { s with session := { s.session with dcMode := mode } }

/-- The body of `SEND x, y, pix` (R176). -/
def State.send (s : State) (x y : Byte) (pix : List Byte) : State :=
  let s := s.colAddr x s.cfg.colEnd
  let s := s.rowAddr y s.cfg.rowEnd
  let s := { s with session := { s.session with win := some ⟨x, s.cfg.colEnd, y, s.cfg.rowEnd⟩ } }
  let s := s.setDc s.cfg.dcData .data
  let s := s.pixData pix
  s.setDc s.cfg.dcCmd .cmd

/-- The checks of `SEND` (R176); its brackets hold while a transfer is in flight (log entry 7). -/
def sendVerdict (s : State) : Verdict :=
  (firstFailing [(!s.dispReady, .dispNotInit), (s.busHeld, .busHeld)]).beforeHold s.inFlight

/-! ### Meanings -/

/-- `EXEC_TABLE T` (R164). -/
def execExecTable (table : List Byte) (s : State) : Result :=
  operateTable (execTableVerdict table s) (fun s => s.execTable table) s

/-- `DISP_INIT` (R172). -/
def execDispInit (s : State) : Result := operateTable (dispInitVerdict s) State.dispInit s

/-- `SEND x, y, pix` (R176). -/
def execSend (x y : Byte) (pix : List Byte) (s : State) : Result := operate (sendVerdict s) (fun s => s.send x y pix) s

/-- `REGWR reg, v1, .., vn` (R166), run by itself: its checks are log entry 6, the `TP` it advances from log entry 25. -/
def execRegwr (reg : Byte) (vals : List Byte) (s : State) : Result :=
  operate (bracketVerdict s) (fun s => s.regwr reg vals) s

/-- `END` (R165), run by itself: no check (log entry 6), and `TP` as it was. -/
def execEndMark (s : State) : Result := operate .go State.endMark s

/-- `CMD` (R98, R161): one bracket of the register address and the values. -/
def execCmd (reg : Byte) (vals : List Byte) (s : State) : Result :=
  operate (bracketVerdict s) (fun s => s.bracket (reg :: vals)) s

/-- `COLADDR s, e` (R174). -/
def execColAddr (first last : Byte) (s : State) : Result := operate (bracketVerdict s) (fun s => s.colAddr first last) s

/-- `ROWADDR s, e` (R175). -/
def execRowAddr (first last : Byte) (s : State) : Result := operate (bracketVerdict s) (fun s => s.rowAddr first last) s

/-- `PIXDATA` (R100, R176). -/
def execPixData (pix : List Byte) (s : State) : Result := operate (bracketVerdict s) (fun s => s.pixData pix) s

end Sys2Proof.Machine
end

