-- ==== Sys2Proof/Machine/Dispatch.lean ====
section
/-! DEFINITION. One arm per instruction of spec/opcode_table.json, each one call of its meaning. -/

namespace Sys2Proof.Machine

def exec (i : Instr) (s : State) : Host.Outcome State Fault Refusal :=
  match i with
  | .busInit => Sys2Proof.Machine.execBusInit s
  | .csInit k => Sys2Proof.Machine.execCsInit k s
  | .csAssert k => Sys2Proof.Machine.execCsAssert k s
  | .csRelease k => Sys2Proof.Machine.execCsRelease k s
  | .write buf => Sys2Proof.Machine.execWrite buf s
  | .read txByte n => Sys2Proof.Machine.execRead txByte n s
  | .execTable table => Sys2Proof.Machine.execExecTable table s
  | .dispInit => Sys2Proof.Machine.execDispInit s
  | .send x y pix => Sys2Proof.Machine.execSend x y pix s
  | .xferStart t cb ctx => Sys2Proof.Machine.execXferStart t cb ctx s
  | .xferWait => Sys2Proof.Machine.execXferWait s
  | .xferBlocking t => Sys2Proof.Machine.execXferBlocking t s
  | .invalid code => Sys2Proof.Machine.execInvalid code s
  | .regwr reg vals => Sys2Proof.Machine.execRegwr reg vals s
  | .endMark => Sys2Proof.Machine.execEndMark s
  | .cmd reg vals => Sys2Proof.Machine.execCmd reg vals s
  | .colAddr first last => Sys2Proof.Machine.execColAddr first last s
  | .rowAddr first last => Sys2Proof.Machine.execRowAddr first last s
  | .pixData pix => Sys2Proof.Machine.execPixData pix s
  | .byte b => Sys2Proof.Machine.execByte b s

end Sys2Proof.Machine
end

