-- ==== Sys2Proof/Machine/Issue.lean ====
section
/-! DEFINITION. How SPIM comes by its next operation (30_encoding.md R90, 70_reset_and_hazards.md R283): what the host has
next, when an operation holds, when a configuration is refused. Machine/Step.lean only calls these. -/

namespace Sys2Proof.Machine

/-- What the checks of an instruction answer in a state. -/
def verdictOf (i : Instr) (s : State) : Verdict :=
  match i with
  | .busInit => busInitVerdict s
  | .csInit k => csInitVerdict k s
  | .csAssert k => csAssertVerdict k s
  | .csRelease k => csReleaseVerdict k s
  | .write buf => blockingVerdict (.write buf) s
  | .read txByte n => blockingVerdict (.read txByte n) s
  | .execTable table => execTableVerdict table s
  | .dispInit => dispInitVerdict s
  | .send _ _ _ => sendVerdict s
  | .xferStart t _ _ => xferVerdict t s
  | .xferWait => xferWaitVerdict s
  | .xferBlocking t => xferVerdict t s
  | .invalid _ => .raise .badOp
  | .regwr _ _ => bracketVerdict s
  | .endMark => .go
  | .cmd _ _ => bracketVerdict s
  | .colAddr _ _ => bracketVerdict s
  | .rowAddr _ _ => bracketVerdict s
  | .pixData _ => bracketVerdict s
  | .byte b => byteVerdict b s

/-- Does an instruction hold: has it no step until `BUSY` = 0 (42_async.md R204)? Not while `FAULT` = 1 (R227). -/
def holds (i : Instr) (s : State) : Bool := !s.fault && verdictOf i s == .hold

/-- The conditions of R264 on a configuration but for the table, which `DISP_INIT` checks when it runs (R172 check 2). -/
def configAccepted (cfg : Config) : Bool :=
  decide (1 ≤ cfg.nCs) && decide (cfg.csDisp < cfg.nCs) && decide (1 ≤ cfg.disponCmd.length)

/-- What SPIM is to do next. -/
inductive Next where
  /-- The host has issued nothing: SPIM waits (R262). -/
  | idle
  /-- A reset (R260). -/
  | reset (rest : List Input)
  /-- An operation. -/
  | run (i : Instr) (rest : List Input)
  /-- What was placed spells nothing. -/
  | none (e : DecodeError)
deriving DecidableEq, Repr

/-- The head of the host's program, decoded (R102, R283). -/
def State.fetch (s : State) : Next :=
  match s.program with
  | [] => .idle
  | .reset :: rest => .reset rest
  | .op e :: rest =>
    match decode s.cfg e with
    | .ok i => .run i rest
    | .error err => .none err

/-- A reset from outside, between operations (R260). One while a bracket is open is refused (R261, U7; log entry 8). -/
def resetEvent (s : State) (rest : List Input) : Result :=
  if s.busHeld then .refused .resetInOpenBracket else .next (State.applyReset { s with program := rest })

/-- Place a word of the opcode table where the next step takes its operation (log entries 5, 15). -/
def State.place (s : State) (nbits w : Nat) : State :=
  { s with program := .op (encodedOfTableWord nbits w) :: s.program }

end Sys2Proof.Machine
end

