-- ==== Sys2Proof/Machine/Step.lean ====
section
/-! DEFINITION. One step: the host's next operation, run to completion (10_state.md R20, 30_encoding.md R90). -/

namespace Sys2Proof.Machine

/-- One step. A configuration that breaks R264 is refused. With nothing issued SPIM waits (R20 b, R262). An operation that holds
stays where it is and nothing happens (42_async.md R204). Any other is taken off the program and run by `exec`. -/
def step (s : State) : Host.Outcome State Fault Refusal :=
  if configAccepted s.cfg then
    match s.fetch with
    | .idle => .next s
    | .reset rest => resetEvent s rest
    | .run i rest => if holds i s then .next s else exec i { s with program := rest }
    | .none e => .refused (.undecodable e)
  else .refused .badConfiguration

/-- `s` with the instruction of an opcode-table word placed as the host's next operation. -/
def State.withFetchWord (s : State) (nbits w : Nat) : State := s.place nbits w

end Sys2Proof.Machine
end

