-- ==== Sys2Proof/WellFormed.lean ====
section
/-! DEFINITION. When an instruction can be spelled (30_encoding.md), and when a configuration is one of this hardware
(70_reset_and_hazards.md R264). -/

namespace Sys2Proof

/-- The operation codes of 30_encoding.md R102 under a configuration. -/
def assignedCode (cfg : Config) (code : Byte) : Bool :=
  [0x01, 0x02, 0x03, 0x04, 0x05, 0x06, 0x10, 0x11, 0x12].contains code.toNat ||
    (cfg.hasAsync && [0x20, 0x21, 0x22].contains code.toNat)

/-- An instruction has a spelling that reads back as itself: a record's length fits its length byte (R92, R107), an
`INVALID` code is one that spells no operation (R104), `XFER_*` needs `HAS_ASYNC` (R102), and a command that is a window
command goes by that name (R99, log entry 21). Commands are told from pixel bytes by the level of `DC` (R100) and the two
window commands from each other by their register, as they are at the values of R8. -/
def Instr.wf (cfg : Config) : Instr → Bool
  | .regwr _ vals => decide (vals.length ≤ 254)
  | .invalid code => !assignedCode cfg code
  | .xferStart _ _ _ => cfg.hasAsync
  | .xferWait => cfg.hasAsync
  | .xferBlocking _ => cfg.hasAsync
  | .cmd reg vals =>
    cfg.dcCmd != cfg.dcData && !(vals.length == 2 && (reg == cfg.colAddrReg || reg == cfg.rowAddrReg))
  | .busInit => true
  | .csInit _ => true
  | .csAssert _ => true
  | .csRelease _ => true
  | .write _ => true
  | .read _ _ => true
  | .execTable _ => true
  | .dispInit => true
  | .send _ _ _ => true
  | .endMark => true
  | .colAddr _ _ => cfg.dcCmd != cfg.dcData
  | .rowAddr _ _ => cfg.dcCmd != cfg.dcData && cfg.rowAddrReg != cfg.colAddrReg
  | .pixData _ => true
  | .byte _ => true

/-- A configuration of this hardware (R264). That the roles stand on distinct pins and that delays are natural numbers
holds by the types. -/
def Config.wf (cfg : Config) : Bool :=
  decide (1 ≤ cfg.nCs) && decide (cfg.csDisp < cfg.nCs) && tableWellFormed cfg.configTable &&
    decide (1 ≤ cfg.disponCmd.length)

end Sys2Proof
end

