-- ==== Sys2Proof/Safety.lean ====
section
/-! DEFINITION. The terms claims are stated in: the invariants of 10_state.md R42 to R49, the expected events of a bit, a
byte, a bracket (30_encoding.md R101; 40_transport.md R124, R126), what a follower hears (20_memory.md R76), and runs
(70_reset_and_hazards.md R283, R284). -/

namespace Sys2Proof.Machine

/-! ### Invariants -/

/-- Each chip-select line has its pin and its ready flag (R28, R36). -/
structure Shaped (s : State) : Prop where
  pins : s.pins.cs.length = s.cfg.nCs
  ready : s.csReady.length = s.cfg.nCs

/-- The bus invariants of R49, clause by clause. R49 writes 0 for the asserted level of a chip-select line and 1 for the
other, the value of `CS_ACTIVE` in R8 and its complement; the parameter in their place is log entry 24. -/
structure BusRule (s : State) : Prop where
  /-- (a) -/
  released : s.sel = none → s.pins.sck.dir = .input ∧ s.pins.mosi.dir = .input
  /-- (b) -/
  selected : ∀ k, s.sel = some k →
    s.pins.sck.dir = .output ∧ s.pins.mosi.dir = .output ∧ (s.pin (.cs k)).lat = .level s.cfg.csActive ∧
      ∀ j, j ≠ k → s.isCsReady j = true → (s.pin (.cs j)).lat = .level (!s.cfg.csActive)
  /-- (c) -/
  oneLow : ∀ j k, (s.pin (.cs j)).lat = .level s.cfg.csActive → (s.pin (.cs k)).lat = .level s.cfg.csActive → j = k
  /-- (d) -/
  csDriven : ∀ k, s.isCsReady k = true → (s.pin (.cs k)).dir = .output
  /-- (e) -/
  misoInput : s.pins.miso.dir = .input

/-- The invariant that operations keep, of which `BusRule` is a part: R49 with what it rests on. -/
structure BusInv (s : State) : Prop where
  shaped : Shaped s
  released : s.sel = none → s.pins.sck.dir = .input ∧ s.pins.mosi.dir = .input
  selected : ∀ k, s.sel = some k → s.pins.sck.dir = .output ∧ s.pins.mosi.dir = .output ∧
    (s.pin (.cs k)).lat = .level s.cfg.csActive ∧ s.isCsReady k = true ∧ s.busReady = true
  low : ∀ k, (s.pin (.cs k)).lat = .level s.cfg.csActive → s.sel = some k
  idleHigh : ∀ k, s.isCsReady k = true → s.sel ≠ some k → (s.pin (.cs k)).lat = .level (!s.cfg.csActive)
  csDriven : ∀ k, s.isCsReady k = true → (s.pin (.cs k)).dir = .output
  misoInput : s.pins.miso.dir = .input

/-- The session mirrors the latches (R42 to R44), and its phase goes with `DISP_READY` (R47). -/
structure SessionInv (s : State) : Prop where
  dcCmd : s.session.dcMode = .cmd ↔ s.pins.dc.lat = .level s.cfg.dcCmd
  /-- Between operations `DC` is never in data mode: never written, or at `DC_CMD` (R44, R178). -/
  dcData : s.session.dcMode ≠ .data ∧ (s.pins.dc.lat = .never ∨ s.pins.dc.lat = .level s.cfg.dcCmd)
  resetAsserted : s.session.resetLine = .asserted ↔ s.pins.res.lat = .level s.cfg.resActive
  resetReleased : s.session.resetLine = .released ↔ s.pins.res.lat = .level (!s.cfg.resActive)
  railGnd : s.session.rail = .gndOnly → s.pins.pwrHv.lat = .level (!s.cfg.hvOn) ∧
    (s.cfg.hasPwrGnd = true → s.pins.pwrGnd.lat = .level s.cfg.gndOn)
  railFull : s.session.rail = .full → s.pins.pwrHv.lat = .level s.cfg.hvOn ∧
    (s.cfg.hasPwrGnd = true → s.pins.pwrGnd.lat = .level s.cfg.gndOn)
  /-- R42, R179: no rule turns the rails off. -/
  railNotOff : s.session.rail ≠ .off
  ready : s.dispReady = true ↔ s.session.phase = .on
  /-- What `DISP_INIT` leaves stays (R172). -/
  on : s.session.phase = .on → s.session.rail = .full ∧ s.session.resetLine = .released ∧ s.session.dcMode = .cmd ∧
    s.pins.dc.dir = .output ∧ s.pins.res.dir = .output ∧ s.pins.pwrHv.dir = .output ∧
    (s.cfg.hasPwrGnd = true → s.pins.pwrGnd.dir = .output) ∧ s.busReady = true ∧ s.isCsReady s.cfg.csDisp = true

/-- The whole invariant of the machine between two operations. -/
structure Inv (s : State) : Prop where
  bus : BusInv s
  session : SessionInv s
  /-- `BUSY` = 0 whenever the host is between two operations (R201). -/
  idle : s.busy = false
  /-- The receive buffer keeps its canonical form. -/
  memory : Memory.wf s.rxbuf = true

/-! ### Expected events -/

/-- The environment's next `n` answers. -/
def Env.take : Nat → Env → List Bool
  | 0, _ => []
  | n + 1, e => e.draw.1 :: Env.take n e.draw.2

/-- The environment after `n` answers. -/
def Env.after : Nat → Env → Env
  | 0, e => e
  | n + 1, e => Env.after n e.draw.2

/-- How many answers a byte uses: eight when there is a data-in line, else none (R128). -/
def samplesPerByte (cfg : Config) : Nat := if cfg.hasMiso then 8 else 0

/-- One bit time (R101): `b` on the data-out line, `a` answered where there is a data-in line. -/
def bitEvents (cfg : Config) (b a : Bool) : List Event :=
  [.set .sck false, .set .mosi b, .delay cfg.tHalf] ++ (if cfg.hasMiso then [.get .miso a] else []) ++
    [.set .sck true, .delay cfg.tHalf]

/-- The bit times of a list of bits, each with its answer. -/
def bitsEvents (cfg : Config) : List Bool → List Bool → List Event
  | b :: bs, a :: as => bitEvents cfg b a ++ bitsEvents cfg bs as
  | _, _ => []

/-- The eight bit times of a byte, most significant bit first (R101, R65). -/
def byteEvents (cfg : Config) (b : Byte) (e : Env) : List Event := bitsEvents cfg (byteBits b) (e.take 8)

/-- The bit times of a byte string in ascending order (R67, R130). -/
def bytesEvents (cfg : Config) : List Byte → Env → List Event
  | [], _ => []
  | b :: rest, e => byteEvents cfg b e ++ bytesEvents cfg rest (e.after (samplesPerByte cfg))

/-- The byte `RXSR` holds after eight bit times: eight answers, first the most significant; 0 with no data-in line (R128). -/
def received (cfg : Config) (e : Env) : Byte := if cfg.hasMiso then bitsToByte (e.take 8) else 0

/-- The events of `READ` from byte `j` on: each byte's bit times, then its `Store` (R131). -/
def readEvents (cfg : Config) (txByte : Byte) : Nat → Nat → Env → List Event
  | _, 0, _ => []
  | j, n + 1, e =>
    byteEvents cfg txByte e ++ .store j (received cfg e) :: readEvents cfg txByte (j + 1) n (e.after (samplesPerByte cfg))

/-- The six events of `CS_ASSERT k` (R124). -/
def assertEvents (cfg : Config) (k : Nat) : List Event :=
  [.set .sck false, .set .mosi true, .dirOut .sck, .dirOut .mosi, .set (.cs k) cfg.csActive, .delay cfg.tCsSetup]

/-- The three events of `CS_RELEASE k` (R126). -/
def releaseEvents (cfg : Config) (k : Nat) : List Event := [.set (.cs k) (!cfg.csActive), .dirIn .sck, .dirIn .mosi]

/-- The events of `Bracket(bytes)` (R161). -/
def bracketEvents (cfg : Config) (bytes : List Byte) (e : Env) : List Event :=
  assertEvents cfg cfg.csDisp ++ bytesEvents cfg bytes e ++ releaseEvents cfg cfg.csDisp

/-- The events of one bracket for each byte string, in order (R164). -/
def bracketsEvents (cfg : Config) : List (List Byte) → Env → List Event
  | [], _ => []
  | bytes :: rest, e => bracketEvents cfg bytes e ++ bracketsEvents cfg rest (e.after (samplesPerByte cfg * bytes.length))

/-! ### Expected states -/

/-- The lines while a byte's bits are shifted: clock high, data-out at the last bit (R128). -/
def Pins.shifted (p : Pins) (lastBit : Bool) : Pins :=
  { p with sck := { p.sck with lat := .level true }, mosi := { p.mosi with lat := .level lastBit } }

/-- The lines after the bytes of a buffer: as they were if it is empty, else as its last bit leaves them. -/
def Pins.written (p : Pins) (buf : List Byte) : Pins :=
  match buf.getLast? with
  | none => p
  | some last => p.shifted (bitOf last 0)

/-- The state after `ShiftByte(b)` (R128). -/
def afterByte (s : State) (b : Byte) : State :=
  { s with
    txsr := b
    rxsr := received s.cfg s.env
    bitcnt := 0
    pins := s.pins.shifted (bitOf b 0)
    env := s.env.after (samplesPerByte s.cfg)
    trace := s.trace ++ byteEvents s.cfg b s.env }

/-- The state after the byte loop of `WRITE buf` (R130): the shifter registers hold the last byte's values. -/
def afterBytes (s : State) (buf : List Byte) : State :=
  { s with
    txsr := buf.getLast?.getD s.txsr
    rxsr := if buf.isEmpty then s.rxsr else received s.cfg (s.env.after (samplesPerByte s.cfg * (buf.length - 1)))
    bitcnt := if buf.isEmpty then s.bitcnt else 0
    bytecnt := if buf.isEmpty then s.bytecnt else buf.length - 1
    pins := s.pins.written buf
    env := s.env.after (samplesPerByte s.cfg * buf.length)
    trace := s.trace ++ bytesEvents s.cfg buf s.env }

/-- The bytes `READ` receives (R131). -/
def receivedBytes (cfg : Config) : Nat → Env → List Byte
  | 0, _ => []
  | n + 1, e => received cfg e :: receivedBytes cfg n (e.after (samplesPerByte cfg))

/-- Bytes stored from an index on, in ascending order (20_memory.md R63). -/
def Memory.writeAll (m : Memory) (j : Nat) : List Byte → Memory
  | [] => m
  | v :: rest => Memory.writeAll (Memory.write m j v) (j + 1) rest

/-- The state after the byte loop of `READ tx_byte, N` (R131): on the pins as `WRITE` of `N` filler bytes, and the received
bytes stored. -/
def afterRead (s : State) (txByte : Byte) (n : Nat) : State :=
  { afterBytes s (List.replicate n txByte) with
    rxbuf := Memory.writeAll s.rxbuf 0 (receivedBytes s.cfg n s.env)
    trace := s.trace ++ readEvents s.cfg txByte 0 n s.env }

/-- The state after the byte loop of a transfer. -/
def afterTransfer (s : State) : Transfer → State
  | .write buf => afterBytes s buf
  | .read txByte n => afterRead s txByte n

/-- The event of a completion, if there is a callback (R202, R203). -/
def callbackEvents (cb : Option Callback) (ctx : Context) : List Event :=
  match cb with
  | none => []
  | some _ => [.callback ctx]

/-- The state after `XFER_START t, cb, ctx` (R202). -/
def afterStart (s : State) (t : Transfer) (cb : Option Callback) (ctx : Context) : State :=
  { afterTransfer s t with
    busy := false
    cb := cb
    ctx := ctx
    trace := (afterTransfer s t).trace ++ callbackEvents cb ctx }

/-- The state after `XFER_BLOCKING t` (R206): no callback, an arbitrary context. -/
def afterBlocking (s : State) (t : Transfer) : State :=
  { afterStart s t none (Config.freeContext s.ctxIdx) with ctxIdx := s.ctxIdx + 1 }

/-- The state after a `WRITE` or `READ` wherever it is run (R130, R131, R206). -/
def afterIssued (s : State) (t : Transfer) : State :=
  if s.cfg.hasAsync then afterBlocking s t else afterTransfer s t

/-- The state after `Bracket(bytes)` (R161). -/
def afterBracket (s : State) (bytes : List Byte) : State :=
  { afterIssued s (.write bytes) with
    sel := none
    pins :=
      { s.pins with
        sck := { dir := .input, lat := .level (!bytes.isEmpty) }
        mosi := { dir := .input, lat := .level (match bytes.getLast? with | none => true | some b => bitOf b 0) }
        cs := s.pins.cs.set s.cfg.csDisp { dir := (s.pin (.cs s.cfg.csDisp)).dir, lat := .level (!s.cfg.csActive) } }
    trace := s.trace ++ bracketEvents s.cfg bytes s.env }

/-- The state after `REGWR` of a record that puts `wire` on the bus (R166). -/
def afterRecord (s : State) (wire : List Byte) : State := { afterBracket s wire with tp := s.tp + 1 + wire.length }

/-- The state after records in table order (R164). -/
def afterRecords (s : State) (records : List (List Byte)) : State := records.foldl afterRecord s

/-- The data-in line, where there is one, is an input (R32, R49 e). -/
def MisoReleased (s : State) : Prop := s.cfg.hasMiso = true → s.pins.miso.dir = .input

/-- A bracket of the sequencer may begin (R162): no fault, the display's line exists and is ready, the bus is initialised and
free, no transfer in flight. -/
structure BracketReady (s : State) : Prop where
  clear : s.fault = false
  exists_cs : s.cfg.csDisp < s.cfg.nCs
  busReady : s.busReady = true
  csReady : s.isCsReady s.cfg.csDisp = true
  free : s.sel = none
  idle : s.inFlight = false
  miso : MisoReleased s

/-- A transfer may begin (R130): no fault, the bus is initialised, a bracket is open, no transfer in flight. -/
structure TransferReady (s : State) : Prop where
  clear : s.fault = false
  busReady : s.busReady = true
  bracket : s.sel ≠ none
  idle : s.inFlight = false
  miso : MisoReleased s

/-- A fault of this code recorded, everything else as before (60_exceptions.md R224, R226). -/
def recorded (s : State) (code : Nat) : State := { s with fault := true, fcause := code }

/-- The events of bring-up steps 1 to 6 (R170). -/
def bringUpEvents (cfg : Config) : List Event :=
  List.flatten [
    -- step 1
    [.dirIn .sck, .dirIn .mosi],
    if cfg.hasMiso then [.dirIn .miso] else [],
    [.set (.cs cfg.csDisp) (!cfg.csActive), .dirOut (.cs cfg.csDisp)],
    -- step 2
    [.set .dc cfg.dcCmd, .dirOut .dc],
    -- step 3
    [.set .res (!cfg.resActive), .dirOut .res],
    -- step 4
    [.set .pwrHv (!cfg.hvOn), .dirOut .pwrHv],
    if cfg.hasPwrGnd then [.set .pwrGnd cfg.gndOn, .dirOut .pwrGnd] else [],
    -- step 5
    [.delay cfg.tRailSettle],
    -- step 6
    [.set .res cfg.resActive, .delay cfg.tResPulse, .set .res (!cfg.resActive), .delay cfg.tResRelease]]

/-- The events of `DISP_INIT` (R170), for a configuration table of these records. -/
def dispInitEvents (cfg : Config) (records : List (List Byte)) (e : Env) : List Event :=
  List.flatten [
    bringUpEvents cfg,
    -- step 7
    bracketsEvents cfg records e,
    -- step 8
    [.set .pwrHv cfg.hvOn, .delay cfg.tHvSettle],
    -- step 9
    bracketEvents cfg cfg.disponCmd (e.after (samplesPerByte cfg * (records.map List.length).sum)),
    [.delay cfg.tDisponSettle]]

/-- The events of `SEND x, y, pix` (R176). -/
def sendEvents (cfg : Config) (x y : Byte) (pix : List Byte) (e : Env) : List Event :=
  List.flatten [
    bracketEvents cfg [cfg.colAddrReg, x, cfg.colEnd] e,
    bracketEvents cfg [cfg.rowAddrReg, y, cfg.rowEnd] (e.after (samplesPerByte cfg * 3)),
    [.set .dc cfg.dcData],
    bracketEvents cfg pix (e.after (samplesPerByte cfg * 6)),
    [.set .dc cfg.dcCmd]]

/-- What no sequencer operation touches (R160, R161): configuration, receive buffer, program, fault record, and every line but
clock, data-out and the display's chip-select, the control lines aside. -/
structure SequencerFrame (s t : State) : Prop where
  cfg : t.cfg = s.cfg
  rxbuf : t.rxbuf = s.rxbuf
  program : t.program = s.program
  fault : t.fault = s.fault
  fcause : t.fcause = s.fcause
  otherCs : ∀ k, k ≠ s.cfg.csDisp → t.pin (.cs k) = s.pin (.cs k) ∧ t.isCsReady k = s.isCsReady k
  noAsync : s.cfg.hasAsync = false → t.busy = s.busy ∧ t.cb = s.cb ∧ t.ctx = s.ctx ∧ t.ctxIdx = s.ctxIdx
  idle : s.busy = false → t.busy = false

/-! ### Time -/

/-- A configuration with every delay zero. -/
def timelessConfig (cfg : Config) : Config :=
  { cfg with
    tHalf := 0, tCsSetup := 0, tRailSettle := 0, tResPulse := 0, tResRelease := 0, tHvSettle := 0, tDisponSettle := 0 }

/-- An event with the number of a `Delay` forgotten. -/
def Event.timeless : Event → Event
  | .delay _ => .delay 0
  | e => e

/-- A state with every duration forgotten: the positions of the delays stay (R173). -/
def State.timeless (s : State) : State := { s with cfg := timelessConfig s.cfg, trace := s.trace.map Event.timeless }

/-! ### Tables -/

/-- The bytes of a record that puts `wire` on the bus (R93): its length byte, then those bytes. -/
def recordBytes (wire : List Byte) : List Byte := BitVec.ofNat 8 wire.length :: wire

/-- A record's bytes on the wire: its register address and values, 1 to 255 of them (R92, R93). -/
def legalRecord (wire : List Byte) : Prop := 1 ≤ wire.length ∧ wire.length ≤ 255

/-- The offset of the sentinel behind these records (R96). -/
def sentinelOffset (records : List (List Byte)) : Nat := (records.map (fun wire => wire.length + 1)).sum

/-! ### Views of a trace -/

/-- The events an operation appended (R45). -/
def appended (s t : State) : List Event := t.trace.drop s.trace.length

/-- Is this a `Delay`? -/
def Event.isDelay : Event → Bool
  | .delay _ => true
  | .dirOut _ => false
  | .dirIn _ => false
  | .set _ _ => false
  | .get _ _ => false
  | .store _ _ => false
  | .callback _ => false

/-- The pin projection of a trace: every `Delay` removed (00_scope.md R18). -/
def pinProjection (tr : List Event) : List Event := tr.filter (fun e => !e.isDelay)

/-- The sum of the numbers the `Delay` events carry (R282). -/
def totalDelay : List Event → Nat
  | [] => 0
  | .delay us :: rest => us + totalDelay rest
  | _ :: rest => totalDelay rest

/-- The clock edges a trace makes from a clock line on (R76): (rising, falling). -/
def clockEdges : Pin → List Event → Nat × Nat
  | _, [] => (0, 0)
  | p, .set .sck v :: rest =>
    let n := clockEdges { p with lat := .level v } rest
    (n.1 + (if p.dir = .output ∧ p.lat = .level false ∧ v = true then 1 else 0),
      n.2 + (if p.dir = .output ∧ p.lat = .level true ∧ v = false then 1 else 0))
  | p, .dirOut .sck :: rest => clockEdges { p with dir := .output } rest
  | p, .dirIn .sck :: rest => clockEdges { p with dir := .input } rest
  | p, _ :: rest => clockEdges p rest

/-- Does an event write or read a line that SPIM must leave alone (R32): `MISO` written, or another line read? -/
def Event.breaksMisoRule : Event → Bool
  | .dirOut l => l == .miso
  | .dirIn _ => false
  | .set l _ => l == .miso
  | .get l _ => l != .miso
  | .delay _ => false
  | .store _ _ => false
  | .callback _ => false

/-- Is an event about a line? -/
def Event.onLine (l : Line) : Event → Bool
  | .dirOut m => m == l
  | .dirIn m => m == l
  | .set m _ => m == l
  | .get m _ => m == l
  | .delay _ => false
  | .store _ _ => false
  | .callback _ => false

/-- What a follower heard in one bracket of its own: the level of `DC` when it was selected, and the levels of `MOSI` at
the rising clock edges. -/
structure Heard where
  dc : Latch
  bits : List Latch
deriving DecidableEq, Repr

/-- A follower on a chip-select line, as it listens to the wires (R76, R78): the level of its line that selects it, the
wires, the bracket it is in, the brackets it has heard. -/
structure Follower where
  active : Bool
  sck : Pin
  mosi : Pin
  dc : Latch
  cs : Latch
  now : Heard
  done : List Heard
deriving DecidableEq, Repr

/-- A follower of line `k` that begins to listen in a state. -/
def Follower.listening (s : State) (k : Nat) : Follower where
  active := s.cfg.csActive
  sck := s.pins.sck
  mosi := s.pins.mosi
  dc := s.pins.dc.lat
  cs := (s.pin (.cs k)).lat
  now := ⟨s.pins.dc.lat, []⟩
  done := []

/-- The level of a driven line; none where it is not driven. -/
def Pin.driven (p : Pin) : Latch := if p.dir = .output then p.lat else .never

/-- One event as a follower of line `k` takes it: it is selected when its line goes to the asserted level, latches `MOSI` on
each rising edge while selected, and is done when its line leaves that level. -/
def Follower.hear (k : Nat) (f : Follower) : Event → Follower
  | .set .sck v =>
    let f' := { f with sck := { f.sck with lat := .level v } }
    if f.sck.dir = .output ∧ f.sck.lat = .level false ∧ v = true ∧ f.cs = .level f.active then
      { f' with now := { f.now with bits := f.now.bits ++ [f.mosi.driven] } }
    else f'
  | .set .mosi v => { f with mosi := { f.mosi with lat := .level v } }
  | .set .dc v => { f with dc := .level v }
  | .set (.cs j) v =>
    if j = k then
      if v = f.active then { f with cs := .level v, now := ⟨f.dc, []⟩ }
      else if f.cs = .level f.active then { f with cs := .level v, done := f.done ++ [f.now] }
      else { f with cs := .level v }
    else f
  | .dirOut .sck => { f with sck := { f.sck with dir := .output } }
  | .dirOut .mosi => { f with mosi := { f.mosi with dir := .output } }
  | .dirIn .sck => { f with sck := { f.sck with dir := .input } }
  | .dirIn .mosi => { f with mosi := { f.mosi with dir := .input } }
  | _ => f

/-- All brackets a follower of line `k` hears in the events an operation appended. -/
def heard (k : Nat) (s t : State) : List Heard := ((appended s t).foldl (Follower.hear k) (Follower.listening s k)).done

/-- A bracket of a byte string as a follower should hear it, most significant bit first (R65, R98). -/
def asHeard (dc : Bool) (bytes : List Byte) : Heard := ⟨.level dc, (bytes.flatMap byteBits).map Latch.level⟩

/-! ### Runs -/

/-- `AFTER_RESET` (R284 a): the table of R53 under a configuration that satisfies R264. What R53 calls unspecified may hold
anything (`TXSR`, `RXSR`, `BITCNT`, `BYTECNT`, `TP`, `CTX`, `FCAUSE`); so may what is not SPIM's: the caller's receive buffer,
the environment, the program. -/
structure AfterReset (s : State) : Prop where
  config : s.cfg.wf = true
  memory : Memory.wf s.rxbuf = true
  table : s =
    { State.afterReset s.cfg with
      txsr := s.txsr, rxsr := s.rxsr, bitcnt := s.bitcnt, bytecnt := s.bytecnt, tp := s.tp, ctx := s.ctx,
      fcause := s.fcause, rxbuf := s.rxbuf, env := s.env, ctxIdx := s.ctxIdx, program := s.program }

/-- The states a run from `AFTER_RESET` passes through, whatever the program and the environment (R283, R284). -/
inductive Reachable : State → Prop where
  | start (s : State) : AfterReset s → Reachable s
  | step (s t : State) : Reachable s → Sys2Proof.Machine.step s = .next t → Reachable t

/-- `CLEAN_ENTRY` (R284 b): reachable, no fault recorded, nothing in flight, no bracket open. A fault stays until reset
(R227), so the run since the last reset is non-faulting; its configuration satisfies R264, which no step changes. -/
structure CleanEntry (s : State) : Prop where
  reachable : Reachable s
  clear : s.fault = false
  idle : s.busy = false
  free : s.sel = none

end Sys2Proof.Machine
end

