-- ==== Sys2Proof/Certificates/Slice0/Obligations.lean ====
section
/-! DEFINITION. The statements, from the numbered rules of spec/. `exec` answers a NEXT state in every one that says what an
instruction does; a usage violation is a next state with the fault recorded (60_exceptions.md R226). Every statement is for every value of the
parameters of 00_scope.md R8 (R4): where a rule writes 0 and 1 for a chip-select line, 0x15, 0x75, 95, 63 in a command or 0
and 1 for `DC`, the statement has the field of the configuration that R8 gives that value. That reading is the model's choice
(log entry 24); each statement that rests on it says so. -/

open Sys2Proof Sys2Proof.Machine

/-! ## Reset -/

/-- 10_state.md R53, R284 (a): the table's values, for every configuration. Nothing is said of what R53 calls unspecified. -/
def Obligations.ResetGivesTheTable : Prop :=
  ∀ cfg : Config,
    let s := State.afterReset cfg
    (∀ l, s.pin l = { dir := .input, lat := .never }) ∧
    s.busReady = false ∧ (∀ k, s.isCsReady k = false) ∧ s.dispReady = false ∧ s.sel = none ∧
    s.busy = false ∧ s.cb = none ∧ s.fault = false ∧ s.trace = [] ∧
    s.session = { rail := .unknown, resetLine := .unknown, dcMode := .unknown, win := none, phase := .uninit } ∧
    s.pins.cs.length = cfg.nCs ∧ s.csReady.length = cfg.nCs ∧ s.cfg = cfg ∧ State.reset = State.afterReset Config.default

/-- 70_reset_and_hazards.md R260, R261: the reset event puts SPIM at the table of R53 and appends nothing; what lies outside
SPIM stays. The refusal while a bracket is open, and what stays, are the model's reading of R261 (log entry 8). The next state
also has `TXSR`, `RXSR`, `BITCNT`, `BYTECNT`, `TP`, `CTX` and `FCAUSE` at 0, which R53 leaves unspecified: those zeros are the
model's choice (log entry 2). -/
def Obligations.ResetEventResult : Prop :=
  ∀ (s : State) (rest : List Input), configAccepted s.cfg = true → s.program = .reset :: rest →
    (s.sel = none → step s = .next { State.afterReset s.cfg with
      rxbuf := s.rxbuf, env := s.env, ctxIdx := s.ctxIdx, program := rest }) ∧
    (s.sel ≠ none → step s = .refused .resetInOpenBracket)

/-! ## TRANSPORT -/

/-- 40_transport.md R122. Everything not named in the next state is unchanged: the latches, the chip-select lines. -/
def Obligations.BusInitResult : Prop :=
  ∀ s : State, s.fault = false →
    (s.sel = none → exec .busInit s = .next { s with
      pins := { s.pins with
        sck := { s.pins.sck with dir := .input }
        mosi := { s.pins.mosi with dir := .input }
        miso := if s.cfg.hasMiso then { s.pins.miso with dir := .input } else s.pins.miso }
      busReady := true
      trace := s.trace ++ ([.dirIn .sck, .dirIn .mosi] ++ if s.cfg.hasMiso then [.dirIn .miso] else []) }) ∧
    (s.sel ≠ none → exec .busInit s = .next (recorded s 3))

/-- 40_transport.md R123. Every other line and field is unchanged. R123 writes 1 for the level of the line; the complement of
`CS_ACTIVE` (R8, R4) in its place is the model's reading (log entry 24). -/
def Obligations.CsInitResult : Prop :=
  ∀ (s : State) (k : Nat), s.fault = false → Shaped s →
    (k < s.cfg.nCs → s.sel = none → ∃ t, exec (.csInit k) s = .next t ∧
      t = { s with pins := t.pins, csReady := t.csReady, trace := s.trace ++ [.set (.cs k) (!s.cfg.csActive), .dirOut (.cs k)] } ∧
      t.pin (.cs k) = { dir := .output, lat := .level (!s.cfg.csActive) } ∧ (∀ l, l ≠ .cs k → t.pin l = s.pin l) ∧
      t.isCsReady k = true ∧ (∀ j, j ≠ k → t.isCsReady j = s.isCsReady j) ∧ Shaped t) ∧
    (s.cfg.nCs ≤ k → exec (.csInit k) s = .next (recorded s 8)) ∧
    (k < s.cfg.nCs → s.sel ≠ none → exec (.csInit k) s = .next (recorded s 3))

/-- 40_transport.md R124. Every other line and field is unchanged. R124 writes 0 for the level of the line; `CS_ACTIVE` (R8, R4)
in its place is the model's reading (log entry 24). -/
def Obligations.CsAssertResult : Prop :=
  ∀ (s : State) (k : Nat), s.fault = false → Shaped s →
    (k < s.cfg.nCs → s.busReady = true → s.isCsReady k = true → s.sel = none → ∃ t, exec (.csAssert k) s = .next t ∧
      t = { s with
        pins := t.pins, sel := some k
        trace := s.trace ++ [.set .sck false, .set .mosi true, .dirOut .sck, .dirOut .mosi, .set (.cs k) s.cfg.csActive,
          .delay s.cfg.tCsSetup] } ∧
      t.pin .sck = { dir := .output, lat := .level false } ∧ t.pin .mosi = { dir := .output, lat := .level true } ∧
      t.pin (.cs k) = { dir := (s.pin (.cs k)).dir, lat := .level s.cfg.csActive } ∧
      (∀ l, l ≠ .sck → l ≠ .mosi → l ≠ .cs k → t.pin l = s.pin l) ∧ Shaped t) ∧
    (s.cfg.nCs ≤ k → exec (.csAssert k) s = .next (recorded s 8)) ∧
    (k < s.cfg.nCs → (s.busReady = false ∨ s.isCsReady k = false) → exec (.csAssert k) s = .next (recorded s 1)) ∧
    (k < s.cfg.nCs → s.busReady = true → s.isCsReady k = true → s.sel ≠ none →
      exec (.csAssert k) s = .next (recorded s 3))

/-- 40_transport.md R126. Every other line and field is unchanged; the latches of clock and data-out keep their values. R126
writes 1 for the level of the line; the complement of `CS_ACTIVE` (R8, R4) in its place is the model's reading (log entry 24). -/
def Obligations.CsReleaseResult : Prop :=
  ∀ (s : State) (k : Nat), s.fault = false → Shaped s →
    (k < s.cfg.nCs → s.sel = some k → ∃ t, exec (.csRelease k) s = .next t ∧
      t = { s with
        pins := t.pins, sel := none
        trace := s.trace ++ [.set (.cs k) (!s.cfg.csActive), .dirIn .sck, .dirIn .mosi] } ∧
      t.pin .sck = { dir := .input, lat := (s.pin .sck).lat } ∧ t.pin .mosi = { dir := .input, lat := (s.pin .mosi).lat } ∧
      t.pin (.cs k) = { dir := (s.pin (.cs k)).dir, lat := .level (!s.cfg.csActive) } ∧
      (∀ l, l ≠ .sck → l ≠ .mosi → l ≠ .cs k → t.pin l = s.pin l) ∧ Shaped t) ∧
    (s.cfg.nCs ≤ k → exec (.csRelease k) s = .next (recorded s 8)) ∧
    (k < s.cfg.nCs → s.sel ≠ some k → exec (.csRelease k) s = .next (recorded s 4))

/-- 40_transport.md R127: the empty bracket, from a state that meets the bus invariants with the bus free. R127 writes 1 for
the level of the line; the complement of `CS_ACTIVE` (R8, R4) in its place is the model's reading (log entry 24). -/
def Obligations.EmptyBracketReleasesTheBus : Prop :=
  ∀ (s : State) (k : Nat), s.fault = false → BusInv s → k < s.cfg.nCs → s.busReady = true → s.isCsReady k = true →
    s.sel = none → ∃ t u, exec (.csAssert k) s = .next t ∧ exec (.csRelease k) t = .next u ∧
      u.pins.sck.dir = .input ∧ u.pins.mosi.dir = .input ∧ (u.pin (.cs k)).lat = .level (!s.cfg.csActive) ∧ u.sel = none ∧
      (∀ j, u.pin (.cs j) = s.pin (.cs j)) ∧ u.csReady = s.csReady ∧ u.pins.miso = s.pins.miso ∧
      u.pins.sck.dir = s.pins.sck.dir ∧ u.pins.mosi.dir = s.pins.mosi.dir ∧
      u.pins.sck.lat = .level false ∧ u.pins.mosi.lat = .level true ∧
      u.trace = s.trace ++ assertEvents s.cfg k ++ releaseEvents s.cfg k

/-- 40_transport.md R134: a bracket on another follower may follow as soon as the first is released; before that it faults.
The levels of the two lines at the end are those of R124 and R126, read as `CS_ACTIVE` and its complement (R8, R4; log
entry 24). -/
def Obligations.BusIsHandedOver : Prop :=
  ∀ (s : State) (j k : Nat), s.fault = false → BusInv s → j < s.cfg.nCs → s.isCsReady j = true → j ≠ k → s.sel = some k →
    exec (.csAssert j) s = .next (recorded s 3) ∧
    ∃ t u, exec (.csRelease k) s = .next t ∧ t.pins.sck.dir = .input ∧ t.pins.mosi.dir = .input ∧
      exec (.csAssert j) t = .next u ∧ u.sel = some j ∧ (u.pin (.cs j)).lat = .level s.cfg.csActive ∧
      (u.pin (.cs k)).lat = .level (!s.cfg.csActive)

/-- 40_transport.md R128, 30_encoding.md R101: the procedure `ShiftByte`, in closed form. That `BITCNT` is 0 after it is the
model's inference (log entry 10). -/
def Obligations.ShiftByteResult : Prop :=
  ∀ (s : State) (b : Byte), MisoReleased s →
    s.shiftByte b = { s with
      txsr := b
      rxsr := if s.cfg.hasMiso then bitsToByte (s.env.take 8) else 0
      bitcnt := 0
      pins := { s.pins with
        sck := { s.pins.sck with lat := .level true }
        mosi := { s.pins.mosi with lat := .level (bitOf b 0) } }
      env := s.env.after (if s.cfg.hasMiso then 8 else 0)
      trace := s.trace ++ bitsEvents s.cfg (byteBits b) (s.env.take 8) }

/-- `BYTE`: the bit level of a byte by itself inside a bracket. That it makes `WRITE`'s checks is the model's choice (log
entry 6), and so is that with ASYNC it does not hold while `BUSY` = 1 and leaves `BUSY`, `CB` and `CTX` as they are (log
entry 26). What it does is 40_transport.md R128, but that `BITCNT` is 0 after it is the model's inference (log entry 10). -/
def Obligations.ByteResult : Prop :=
  ∀ (s : State) (b : Byte), s.fault = false → s.busReady = true → s.sel ≠ none → MisoReleased s →
    exec (.byte b) s = .next (afterByte s b)

/-- 40_transport.md R130 with 42_async.md R206: `WRITE` of any buffer, with and without ASYNC, and its checks. `BITCNT` = 0
and `BYTECNT` = N - 1 at the end are the model's inference (log entry 10), the value of `CTX` with ASYNC and the index of the
next free context its choice (log entry 4). -/
def Obligations.WriteResult : Prop :=
  ∀ (s : State) (buf : List Byte),
    (TransferReady s → exec (.write buf) s = .next (afterIssued s (.write buf)) ∧
      (afterIssued s (.write buf)).trace = s.trace ++ bytesEvents s.cfg buf s.env) ∧
    (s.fault = false → s.inFlight = false → s.busReady = false → exec (.write buf) s = .next (recorded s 1)) ∧
    (s.fault = false → s.inFlight = false → s.busReady = true → s.sel = none →
      exec (.write buf) s = .next (recorded s 2))

/-- 40_transport.md R131: `READ` stores byte `j` as the eight answers of its bit times spell it, leaves later offsets alone,
shifts the filler byte every time, and makes its three checks. `BITCNT` = 0 and `BYTECNT` = N - 1 at the end are the model's
inference (log entry 10), the value of `CTX` with ASYNC and the index of the next free context its choice (log entry 4). -/
def Obligations.ReadResult : Prop :=
  ∀ (s : State) (txByte : Byte) (n : Nat),
    (TransferReady s → s.cfg.hasMiso = true → ∃ t, exec (.read txByte n) s = .next t ∧
      t = afterIssued s (.read txByte n) ∧
      (∀ j, j < n → Memory.read t.rxbuf j = some (bitsToByte ((s.env.after (8 * j)).take 8))) ∧
      (∀ j, n ≤ j → Memory.read t.rxbuf j = Memory.read s.rxbuf j) ∧
      t.trace = s.trace ++ readEvents s.cfg txByte 0 n s.env ∧
      (readEvents s.cfg txByte 0 n s.env).filter (fun e => (e.onLine .sck || e.onLine .mosi || e.onLine .miso || e.isDelay)) =
        bytesEvents s.cfg (List.replicate n txByte) s.env) ∧
    (s.fault = false → s.inFlight = false → s.busReady = false → exec (.read txByte n) s = .next (recorded s 1)) ∧
    (s.fault = false → s.inFlight = false → s.busReady = true → s.sel = none →
      exec (.read txByte n) s = .next (recorded s 2)) ∧
    (s.fault = false → s.inFlight = false → s.busReady = true → s.sel ≠ none → s.cfg.hasMiso = false →
      exec (.read txByte n) s = .next (recorded s 5))

/-- 40_transport.md R132: the round trip of a byte the environment echoes, most significant bit first. -/
def Obligations.ReadReconstructsTheByte : Prop :=
  ∀ (s : State) (b : Byte), TransferReady s → s.cfg.hasMiso = true → s.env.take 8 = byteBits b →
    ∃ t, exec (.read 0xFF 1) s = .next t ∧ Memory.read t.rxbuf 0 = some b ∧
      ∀ v, Event.set .mosi v ∈ appended s t → v = true

/-- 40_transport.md R133: how many events of each kind a `WRITE` of `N` bytes appends. -/
def Obligations.WriteEventCounts : Prop :=
  ∀ (s : State) (buf : List Byte), TransferReady s → ∃ t, exec (.write buf) s = .next t ∧
    (appended s t).count (.set .sck false) = 8 * buf.length ∧
    (appended s t).count (.set .sck true) = 8 * buf.length ∧
    (appended s t).countP (Event.onLine .mosi) = 8 * buf.length ∧
    (appended s t).count (.delay s.cfg.tHalf) = 16 * buf.length ∧
    (appended s t).countP (Event.onLine .miso) = (if s.cfg.hasMiso then 8 * buf.length else 0) ∧
    (appended s t).length = (if s.cfg.hasMiso then 48 else 40) * buf.length

/-- 20_memory.md R76, 40_transport.md R125: each bit time has one rising edge, and a falling one unless the clock is low
already, as it is after `CS_ASSERT`. -/
def Obligations.WriteClockEdges : Prop :=
  ∀ (s : State) (buf : List Byte), TransferReady s → s.pins.sck.dir = .output →
    ∃ t, exec (.write buf) s = .next t ∧ (buf ≠ [] → t.pins.sck.lat = .level true) ∧
      (s.pins.sck.lat = .level false → clockEdges s.pins.sck (appended s t) = (8 * buf.length, 8 * buf.length - 1)) ∧
      (s.pins.sck.lat = .level true → clockEdges s.pins.sck (appended s t) = (8 * buf.length, 8 * buf.length))

/-! ## SEQUENCER -/

/-- 41_sequencer.md R161, R174 to R176: a wire command is one bracket of its bytes; nothing is done to `DC`. That the host can
run one by itself, with the checks of `CS_ASSERT`, is the model's choice (log entry 6); the values of `BITCNT` and `BYTECNT` at
the end are its inference (log entry 10), that of `CTX` and of the next context's index with ASYNC its choice (log entry 4).
0x15 and 0x75 are read as the parameters of R8 (log entry 24), and so are the chip-select levels inside the bracket. -/
def Obligations.WireCommandsAreOneBracket : Prop :=
  ∀ (s : State) (reg first last : Byte) (vals pix : List Byte), BracketReady s →
    exec (.cmd reg vals) s = .next (afterBracket s (reg :: vals)) ∧
    exec (.colAddr first last) s = .next (afterBracket s [s.cfg.colAddrReg, first, last]) ∧
    exec (.rowAddr first last) s = .next (afterBracket s [s.cfg.rowAddrReg, first, last]) ∧
    exec (.pixData pix) s = .next (afterBracket s pix)

/-- What a bracket leaves (41_sequencer.md R161; R49 a), run by itself (log entry 6): the bus free, every line but clock,
data-out and the display's chip-select as it was, and the trace of the three transport bodies. The chip-select's levels are
read as `CS_ACTIVE` and its complement (log entry 24). -/
def Obligations.BracketLeavesTheBusFree : Prop :=
  ∀ (s : State) (reg : Byte) (vals : List Byte), BracketReady s → Shaped s → ∃ t, exec (.cmd reg vals) s = .next t ∧
    t.sel = none ∧ t.pins.sck.dir = .input ∧ t.pins.mosi.dir = .input ∧
    t.pin (.cs s.cfg.csDisp) = { dir := (s.pin (.cs s.cfg.csDisp)).dir, lat := .level (!s.cfg.csActive) } ∧
    (∀ l, l ≠ .sck → l ≠ .mosi → l ≠ .cs s.cfg.csDisp → t.pin l = s.pin l) ∧
    t.trace = s.trace ++ (assertEvents s.cfg s.cfg.csDisp ++ bytesEvents s.cfg (reg :: vals) s.env ++
      releaseEvents s.cfg s.cfg.csDisp) ∧
    t.tp = s.tp ∧ t.session = s.session ∧ t.busReady = s.busReady ∧ t.csReady = s.csReady ∧ t.dispReady = s.dispReady ∧
    SequencerFrame s t

/-- 41_sequencer.md R166: one bracket of the record's bytes, then `TP` past the record. As above the checks are the model's
(log entry 6), and so are `BITCNT` and `BYTECNT` (log entry 10), `CTX` and the next context's index (log entry 4) at the end.
That a record run by itself advances from whatever `TP` holds is the model's choice (log entry 25): 10_state.md R26 gives `TP`
no value outside a table. The bracket's chip-select levels are read as in log entry 24. -/
def Obligations.RegwrResult : Prop :=
  ∀ (s : State) (reg : Byte) (vals : List Byte), BracketReady s →
    exec (.regwr reg vals) s = .next { afterBracket s (reg :: vals) with tp := s.tp + 1 + (vals.length + 1) }

/-- 41_sequencer.md R165: the sentinel does nothing, and a table of the sentinel alone ends at offset 0 with no event. That
`END` can be run by itself, with no checks and in every state, is the model's choice (log entry 6). -/
def Obligations.EndMarkResult : Prop :=
  (∀ s : State, exec .endMark s = .next s) ∧
  (∀ (s : State) (tail : List Byte), s.fault = false → s.busReady = true → s.isCsReady s.cfg.csDisp = true → s.sel = none →
    exec (.execTable (0 :: tail)) s = .next { s with tp := 0 })

/-- 30_encoding.md R96: a table is well formed exactly when it is legal records, then a sentinel, then anything. -/
def Obligations.WellFormedTablesAreRecordsAndSentinel : Prop :=
  ∀ table : List Byte, tableWellFormed table = true ↔
    ∃ (records : List (List Byte)) (tail : List Byte),
      (∀ wire ∈ records, legalRecord wire) ∧ table = records.flatMap recordBytes ++ 0 :: tail

/-- 41_sequencer.md R164: the records in table order, one bracket each, `TP` at the sentinel; and the checks. The
first clause gives the whole next state: its `BITCNT` and `BYTECNT` are the model's inference (log entry 10), its `CTX` and next
context's index with ASYNC the model's choice (log entry 4). The brackets' chip-select levels are read as in log entry 24. -/
def Obligations.ExecTableResult : Prop :=
  ∀ s : State,
    (∀ (records : List (List Byte)) (tail : List Byte), BracketReady s → (∀ wire ∈ records, legalRecord wire) →
      ∃ t, exec (.execTable (records.flatMap recordBytes ++ 0 :: tail)) s = .next t ∧
        t = afterRecords { s with tp := 0 } records ∧
        t.tp = sentinelOffset records ∧ t.trace = s.trace ++ bracketsEvents s.cfg records s.env ∧
        t.sel = none ∧ t.pins.dc = s.pins.dc ∧ t.pins.res = s.pins.res ∧ t.pins.pwrGnd = s.pins.pwrGnd ∧
        t.pins.pwrHv = s.pins.pwrHv ∧ t.pins.miso = s.pins.miso ∧ t.session = s.session ∧
        t.busReady = s.busReady ∧ t.csReady = s.csReady ∧ t.dispReady = s.dispReady ∧ SequencerFrame s t) ∧
    (∀ table, s.fault = false → (s.busReady = false ∨ s.isCsReady s.cfg.csDisp = false) →
      exec (.execTable table) s = .next (recorded s 1)) ∧
    (∀ table, s.fault = false → s.busReady = true → s.isCsReady s.cfg.csDisp = true → s.sel ≠ none →
      exec (.execTable table) s = .next (recorded s 3))

/-- 41_sequencer.md R167: a table that is not well formed is refused whole, with nothing appended. -/
def Obligations.BadTablesAreRefusedWhole : Prop :=
  ∀ s : State, s.fault = false → s.sel = none →
    (∀ table, s.busReady = true → s.isCsReady s.cfg.csDisp = true → tableWellFormed table = false →
      exec (.execTable table) s = .next (recorded s 6)) ∧
    (tableWellFormed s.cfg.configTable = false → exec .dispInit s = .next (recorded s 6))

/-- 41_sequencer.md R167, 60_exceptions.md R229: every instruction answers a next state in every state; in particular no fetch
is ever outside its table. That an operation that holds answers the unchanged state is the model's form of it (log entry 7),
that single records, commands and bytes run by themselves its choice (log entry 6). -/
def Obligations.EveryInstructionAnswers : Prop :=
  ∀ (i : Instr) (s : State), ∃ t, exec i s = .next t

/-- 41_sequencer.md R170, R172: the whole bring-up: its trace, and the state it ends in. The chip-select levels are read as
`CS_ACTIVE` and its complement (log entry 24). -/
def Obligations.DispInitResult : Prop :=
  ∀ (s : State) (records : List (List Byte)) (tail : List Byte), s.fault = false → s.sel = none → s.inFlight = false →
    Shaped s → s.cfg.csDisp < s.cfg.nCs → (∀ wire ∈ records, legalRecord wire) →
    s.cfg.configTable = records.flatMap recordBytes ++ 0 :: tail →
    ∃ t, exec .dispInit s = .next t ∧
      t.trace = s.trace ++ dispInitEvents s.cfg records s.env ∧
      t.busReady = true ∧ t.isCsReady s.cfg.csDisp = true ∧ t.dispReady = true ∧ t.sel = none ∧
      t.tp = sentinelOffset records ∧
      t.pins.sck.dir = .input ∧ t.pins.mosi.dir = .input ∧
      t.pin (.cs s.cfg.csDisp) = { dir := .output, lat := .level (!s.cfg.csActive) } ∧
      t.pins.dc = { dir := .output, lat := .level s.cfg.dcCmd } ∧
      t.pins.res = { dir := .output, lat := .level (!s.cfg.resActive) } ∧
      t.pins.pwrHv = { dir := .output, lat := .level s.cfg.hvOn } ∧
      t.pins.pwrGnd = (if s.cfg.hasPwrGnd then { dir := .output, lat := .level s.cfg.gndOn } else s.pins.pwrGnd) ∧
      t.pins.miso = (if s.cfg.hasMiso then { s.pins.miso with dir := .input } else s.pins.miso) ∧
      t.session = { rail := .full, resetLine := .released, dcMode := .cmd, win := none, phase := .on } ∧
      SequencerFrame s t

/-- 41_sequencer.md R172: `DISP_INIT` while the bus is held. -/
def Obligations.DispInitNeedsAFreeBus : Prop :=
  ∀ s : State, s.fault = false → s.sel ≠ none → exec .dispInit s = .next (recorded s 3)

/-- 41_sequencer.md R173, 70_reset_and_hazards.md R280: durations do not change what happens. Two runs of any instruction from
states that differ only in delay parameters (and in numbers of delays past) end in states that differ only so: the same
events and the same places of the delays, hence the same pin projection. -/
def Obligations.DurationsDoNotSequence : Prop :=
  ∀ (i : Instr) (s s' t t' : State), s.timeless = s'.timeless → exec i s = .next t → exec i s' = .next t' →
    t.timeless = t'.timeless ∧ pinProjection t.trace = pinProjection t'.trace

/-- 41_sequencer.md R176, R177: the two address commands, data mode, the bytes, command mode, for any `x`, `y` and pixel
bytes; and the checks. 0x15, 0x75, 95, 63 and the levels are read as the parameters of R8 (log entry 24). -/
def Obligations.SendResult : Prop :=
  ∀ (s : State) (x y : Byte) (pix : List Byte), s.fault = false →
    (s.dispReady = true → s.sel = none → s.inFlight = false → MisoReleased s → s.cfg.csDisp < s.pins.cs.length →
      ∃ t, exec (.send x y pix) s = .next t ∧
        t.trace = s.trace ++ sendEvents s.cfg x y pix s.env ∧
        t.session = { s.session with win := some ⟨x, s.cfg.colEnd, y, s.cfg.rowEnd⟩, dcMode := .cmd } ∧ t.sel = none ∧
        t.pins.sck.dir = .input ∧ t.pins.mosi.dir = .input ∧
        t.pin (.cs s.cfg.csDisp) = { dir := (s.pin (.cs s.cfg.csDisp)).dir, lat := .level (!s.cfg.csActive) } ∧
        t.pins.dc = { dir := s.pins.dc.dir, lat := .level s.cfg.dcCmd } ∧ t.pins.res = s.pins.res ∧
        t.pins.pwrGnd = s.pins.pwrGnd ∧ t.pins.pwrHv = s.pins.pwrHv ∧ t.pins.miso = s.pins.miso ∧ t.tp = s.tp ∧
        t.busReady = s.busReady ∧ t.csReady = s.csReady ∧ t.dispReady = s.dispReady ∧ SequencerFrame s t) ∧
    (s.dispReady = false → exec (.send x y pix) s = .next (recorded s 7)) ∧
    (s.dispReady = true → s.sel ≠ none → exec (.send x y pix) s = .next (recorded s 3))

/-- 41_sequencer.md R176, R178, 30_encoding.md R98 to R100: what the display hears of a `SEND` is exactly three brackets: the
two address commands with `DC` = 0 and the pixel bytes with `DC` = 1, every byte most significant bit first. 0x15, 0x75, 95,
63 and the levels are read as the parameters of R8 (log entry 24). -/
def Obligations.DisplayHearsSend : Prop :=
  ∀ (s : State) (x y : Byte) (pix : List Byte), s.fault = false → s.dispReady = true → s.sel = none → s.inFlight = false →
    MisoReleased s → s.pins.dc.lat = .level s.cfg.dcCmd →
    ∃ t, exec (.send x y pix) s = .next t ∧
      heard s.cfg.csDisp s t =
        [asHeard s.cfg.dcCmd [s.cfg.colAddrReg, x, s.cfg.colEnd], asHeard s.cfg.dcCmd [s.cfg.rowAddrReg, y, s.cfg.rowEnd],
          asHeard s.cfg.dcData pix]

/-- 41_sequencer.md R166: what the display hears of a table is one bracket a record, containing exactly its bytes, in table
order. The follower is selected at `CS_ACTIVE` (log entry 24). -/
def Obligations.DisplayHearsTheTable : Prop :=
  ∀ (s : State) (records : List (List Byte)) (tail : List Byte) (v : Bool), BracketReady s →
    (∀ wire ∈ records, legalRecord wire) → s.pins.dc.lat = .level v →
    ∃ t, exec (.execTable (records.flatMap recordBytes ++ 0 :: tail)) s = .next t ∧
      heard s.cfg.csDisp s t = records.map (asHeard v)

/-- 41_sequencer.md R170, R178: what the display hears of `DISP_INIT` is the configuration table and then the display-on
command, all with `DC` = 0, read as `DC_CMD`; the follower is selected at `CS_ACTIVE` (log entry 24). -/
def Obligations.DisplayHearsBringUp : Prop :=
  ∀ (s : State) (records : List (List Byte)) (tail : List Byte), s.fault = false → s.sel = none → s.inFlight = false →
    BusInv s → (∀ wire ∈ records, legalRecord wire) → s.cfg.configTable = records.flatMap recordBytes ++ 0 :: tail →
    ∃ t, exec .dispInit s = .next t ∧
      heard s.cfg.csDisp s t = records.map (asHeard s.cfg.dcCmd) ++ [asHeard s.cfg.dcCmd s.cfg.disponCmd]

/-- 20_memory.md R78: an operation makes no event on the chip-select line of a follower it does not name. -/
def Obligations.OtherFollowersAreLeftAlone : Prop :=
  ∀ (i : Instr) (s t : State) (j : Nat), exec i s = .next t → j ≠ s.cfg.csDisp →
    i ≠ .csInit j → i ≠ .csAssert j → i ≠ .csRelease j →
    t.pin (.cs j) = s.pin (.cs j) ∧ t.isCsReady j = s.isCsReady j ∧ ∀ e ∈ appended s t, e.onLine (.cs j) = false

/-- 70_reset_and_hazards.md R282: the least time of a bracket of `n` bytes, run by itself (log entry 6). -/
def Obligations.BracketDuration : Prop :=
  ∀ (s : State) (reg : Byte) (vals : List Byte), BracketReady s → ∃ t, exec (.cmd reg vals) s = .next t ∧
    totalDelay (appended s t) = s.cfg.tCsSetup + 16 * (vals.length + 1) * s.cfg.tHalf

/-! ## ASYNC -/

/-- 42_async.md R202, R203: a started transfer: its bytes, then the callback if there is one, `BUSY` 0 at the end; and the
checks, which leave `BUSY`, `CB` and `CTX` alone. `BITCNT` = 0 and `BYTECNT` = N - 1 at the end are the model's inference (log
entry 10). -/
def Obligations.XferStartResult : Prop :=
  ∀ (s : State) (cb : Option Callback) (ctx : Context), s.cfg.hasAsync = true →
    (TransferReady s →
      (∀ buf, exec (.xferStart (.write buf) cb ctx) s = .next { afterBytes s buf with
        busy := false, cb := cb, ctx := ctx
        trace := s.trace ++ bytesEvents s.cfg buf s.env ++ (if cb.isSome then [.callback ctx] else []) }) ∧
      (s.cfg.hasMiso = true → ∀ txByte n, exec (.xferStart (.read txByte n) cb ctx) s = .next { afterRead s txByte n with
        busy := false, cb := cb, ctx := ctx
        trace := s.trace ++ readEvents s.cfg txByte 0 n s.env ++ (if cb.isSome then [.callback ctx] else []) })) ∧
    (s.fault = false → s.busy = false → ∀ t,
      (s.busReady = false → exec (.xferStart t cb ctx) s = .next (recorded s 1)) ∧
      (s.busReady = true → s.sel = none → exec (.xferStart t cb ctx) s = .next (recorded s 2)) ∧
      (s.busReady = true → s.sel ≠ none → s.cfg.hasMiso = false → ∀ txByte n, t = .read txByte n →
        exec (.xferStart t cb ctx) s = .next (recorded s 5)))

/-- 42_async.md R203: the callback's event, with its own context, follows every event of the transfer, and `BUSY` is 0 at the
end. The state named is the one after the transfer's bytes, where `BUSY` is 1; which of the callback and the clearing of `BUSY`
comes first is not seen in the state they end in. -/
def Obligations.CallbackFollowsTheTransfer : Prop :=
  ∀ (s : State) (t : Transfer) (c : Callback) (ctx : Context), TransferReady s → s.cfg.hasAsync = true →
    (∀ txByte n, t = .read txByte n → s.cfg.hasMiso = true) →
    ∃ u : State, u = (s.beginTransfer (some c) ctx).transferBytes t ∧ u.busy = true ∧ u.cb = some c ∧ u.ctx = ctx ∧
      exec (.xferStart t (some c) ctx) s = .next { u with trace := u.trace ++ [.callback ctx], busy := false }

/-- 42_async.md R206: `XFER_BLOCKING` is the start with no callback and an arbitrary context (a free value). -/
def Obligations.XferBlockingResult : Prop :=
  ∀ (s : State) (t : Transfer), TransferReady s → s.cfg.hasAsync = true →
    (∀ txByte n, t = .read txByte n → s.cfg.hasMiso = true) →
    ∃ u ctx, exec (.xferBlocking t) s = .next u ∧
      exec (.xferStart t none ctx) s = .next { u with ctxIdx := s.ctxIdx } ∧ u.busy = false ∧ u.cb = none ∧
      u.ctxIdx = s.ctxIdx + 1

/-- 42_async.md R206: with ASYNC a `WRITE` or `READ` of the host is `XFER_BLOCKING` of itself. -/
def Obligations.WritesAndReadsAreBlockingTransfers : Prop :=
  ∀ s : State, s.cfg.hasAsync = true →
    (∀ buf, exec (.write buf) s = exec (.xferBlocking (.write buf)) s) ∧
    (∀ txByte n, exec (.read txByte n) s = exec (.xferBlocking (.read txByte n)) s)

/-- 42_async.md R205: `XFER_WAIT` returns at once while `BUSY` = 0, with nothing changed. -/
def Obligations.XferWaitResult : Prop :=
  ∀ s : State, s.cfg.hasAsync = true → s.busy = false → exec .xferWait s = .next s

/-- 42_async.md R204: while a transfer is in flight, a transfer has no step: the machine stays as it is and the operation stays
to be issued. -/
def Obligations.TransfersHoldWhileBusy : Prop :=
  ∀ (s : State) (i : Instr) (rest : List Input), configAccepted s.cfg = true → s.fault = false → s.cfg.hasAsync = true →
    s.busy = true → s.fetch = .run i rest →
    ((∃ buf, i = .write buf) ∨ (∃ txByte n, i = .read txByte n) ∨ (∃ t cb ctx, i = .xferStart t cb ctx) ∨
      i = .xferWait ∨ (∃ t, i = .xferBlocking t)) →
    step s = .next s ∧ exec i s = .next s

/-- 42_async.md R204, R208: so does an operation whose checks pass and that would run a transfer inside. That it holds at its
start and not at the transfer is the model's choice (log entry 7); that `REGWR`, `CMD`, `COLADDR`, `ROWADDR` and `PIXDATA` run
by themselves, with the checks of `CS_ASSERT`, is too (log entry 6). -/
def Obligations.BracketsHoldWhileBusy : Prop :=
  ∀ (s : State) (i : Instr) (rest : List Input), configAccepted s.cfg = true → s.fault = false → s.cfg.hasAsync = true →
    s.busy = true → s.sel = none → s.busReady = true → s.isCsReady s.cfg.csDisp = true → s.fetch = .run i rest →
    ((∃ len more, i = .execTable (len :: more) ∧ len ≠ 0 ∧ tableWellFormed (len :: more) = true) ∨
      (i = .dispInit ∧ tableWellFormed s.cfg.configTable = true) ∨
      (∃ x y pix, i = .send x y pix ∧ s.dispReady = true) ∨ (∃ reg vals, i = .regwr reg vals) ∨
      (∃ reg vals, i = .cmd reg vals) ∨ (∃ a b, i = .colAddr a b) ∨ (∃ a b, i = .rowAddr a b) ∨
      (∃ pix, i = .pixData pix)) →
    step s = .next s ∧ exec i s = .next s

/-- 42_async.md R200: ASYNC changes nothing on the pins: a `WRITE` or `READ` appends the same events, stores the same bytes and
leaves the same lines with it and without it. -/
def Obligations.AsyncChangesNothingOnThePins : Prop :=
  ∀ (s : State) (i : Instr), TransferReady s → s.busy = false →
    ((∃ buf, i = .write buf) ∨ (s.cfg.hasMiso = true ∧ ∃ txByte n, i = .read txByte n)) →
    ∃ t u, exec i { s with cfg := { s.cfg with hasAsync := true } } = .next t ∧
      exec i { s with cfg := { s.cfg with hasAsync := false } } = .next u ∧
      t.trace = u.trace ∧ t.pins = u.pins ∧ t.env = u.env ∧ t.rxbuf = u.rxbuf ∧ t.sel = u.sel ∧ t.fault = u.fault

/-- 30_encoding.md R104: a code that spells no operation, or an `XFER_*` where there is no ASYNC, raises `E_BAD_OP`; the
decoder is total on codes. -/
def Obligations.BadOperationCodes : Prop :=
  (∀ (s : State) (code : Byte), s.fault = false → exec (.invalid code) s = .next (recorded s 9)) ∧
  (∀ (cfg : Config) (code : Byte) (args : Operands), assignedCode cfg code = false →
    decode cfg (.hostOp code args) = .ok (.invalid code)) ∧
  (∀ (cfg : Config) (code : Byte) (args : Operands), ∃ i, decode cfg (.hostOp code args) = .ok i) ∧
  (∀ (s : State) (t : Transfer) (cb : Option Callback) (ctx : Context), s.fault = false → s.cfg.hasAsync = false →
    exec (.xferStart t cb ctx) s = .next (recorded s 9) ∧ exec .xferWait s = .next (recorded s 9) ∧
    exec (.xferBlocking t) s = .next (recorded s 9))

/-! ## Faults -/

/-- 60_exceptions.md R226, R224: an operation that records a fault does nothing else, and the cause is one of the nine. -/
def Obligations.FaultsArePrecise : Prop :=
  ∀ (i : Instr) (s t : State), s.fault = false → exec i s = .next t → t.fault = true →
    ∃ c : Cause, t = recorded s c.code

/-- 60_exceptions.md R227: while a fault is recorded no operation does anything; the step only takes it off the program (the
model's form of a program: log entry 5). Reset clears it. -/
def Obligations.FaultsAreSticky : Prop :=
  ∀ s : State, s.fault = true →
    (∀ i, exec i s = .next s) ∧
    (∀ i rest, configAccepted s.cfg = true → s.fetch = .run i rest → step s = .next { s with program := rest }) ∧
    (∀ rest, configAccepted s.cfg = true → s.program = .reset :: rest → s.sel = none →
      ∃ t, step s = .next t ∧ t.fault = false)

/-! ## Invariants -/

/-- The invariant of the machine (10_state.md R42 to R44, R47, R49; 42_async.md R201; the receive buffer's form) holds after
reset, whatever the configuration, and in every `AFTER_RESET` state (R284 a), whatever R53 leaves unspecified holds. The
invariant has R49's levels as `CS_ACTIVE` and its complement (log entry 24). -/
def Obligations.ResetMeetsTheInvariant : Prop :=
  (∀ cfg : Config, Inv (State.afterReset cfg)) ∧ ∀ s : State, AfterReset s → Inv s

/-- Every step keeps it, from every state that meets it. R49's levels are read as in log entry 24. -/
def Obligations.StepKeepsTheInvariant : Prop :=
  ∀ s t : State, Inv s → step s = .next t → Inv t

/-- 10_state.md R49: the five bus invariants, clause by clause, are part of it. R49 writes 0 and 1 for the levels of a
chip-select latch; `CS_ACTIVE` (R8, R4) and its complement in their place are the model's reading (log entry 24). -/
def Obligations.BusRuleFollows : Prop :=
  ∀ s : State, BusInv s → BusRule s

/-- 70_reset_and_hazards.md R283, R284: from every `AFTER_RESET` state, whatever the program and the environment, every state of
a run meets the invariant and the bus rule, and its configuration satisfies R264; in a clean-entry state clock and data-out are
released. R49's levels are read as in log entry 24. -/
def Obligations.RunsMeetTheInvariant : Prop :=
  (∀ s : State, Reachable s → Inv s ∧ BusRule s ∧ s.cfg.wf = true) ∧
  (∀ s : State, CleanEntry s → s.pins.sck.dir = .input ∧ s.pins.mosi.dir = .input)

/-- 10_state.md R50, R22 and 70_reset_and_hazards.md R283: no operation writes the configuration or the host's program. -/
def Obligations.ConfigurationIsNeverWritten : Prop :=
  (∀ (i : Instr) (s t : State), exec i s = .next t → t.cfg = s.cfg ∧ t.program = s.program) ∧
  (∀ s t : State, step s = .next t → t.cfg = s.cfg)

/-- 10_state.md R45: the trace is only appended to. -/
def Obligations.TraceOnlyGrows : Prop :=
  ∀ (i : Instr) (s t : State), exec i s = .next t → ∃ ev, t.trace = s.trace ++ ev

/-- 10_state.md R35 to R37, R41: no operation clears a ready flag or a fault. -/
def Obligations.ReadyFlagsStay : Prop :=
  ∀ (i : Instr) (s t : State), exec i s = .next t →
    (s.busReady = true → t.busReady = true) ∧ (∀ k, s.isCsReady k = true → t.isCsReady k = true) ∧
    (s.dispReady = true → t.dispReady = true) ∧ (s.fault = true → t.fault = true)

/-- 41_sequencer.md R178: only `DISP_INIT` and `SEND` write `DC`. -/
def Obligations.OnlyDispInitAndSendWriteDc : Prop :=
  ∀ (i : Instr) (s t : State), exec i s = .next t → i ≠ .dispInit → (∀ x y pix, i ≠ .send x y pix) →
    t.pins.dc = s.pins.dc ∧ t.session.dcMode = s.session.dcMode ∧ ∀ e ∈ appended s t, e.onLine .dc = false

/-- 70_reset_and_hazards.md R263, 41_sequencer.md R160, R179, 40_transport.md R121: only `DISP_INIT` touches `RES` and the
power lines, or the session's record of them. -/
def Obligations.OnlyDispInitDrivesResetAndPower : Prop :=
  ∀ (i : Instr) (s t : State), exec i s = .next t → i ≠ .dispInit →
    t.pins.res = s.pins.res ∧ t.pins.pwrGnd = s.pins.pwrGnd ∧ t.pins.pwrHv = s.pins.pwrHv ∧
    t.session.rail = s.session.rail ∧ t.session.resetLine = s.session.resetLine ∧ t.session.phase = s.session.phase ∧
    t.dispReady = s.dispReady ∧
    ∀ e ∈ appended s t, e.onLine .res = false ∧ e.onLine .pwrGnd = false ∧ e.onLine .pwrHv = false

/-- 10_state.md R32: `MISO` is never driven or written, and no other line is read. -/
def Obligations.MisoIsOnlyRead : Prop :=
  ∀ (i : Instr) (s t : State), exec i s = .next t → ∀ e ∈ appended s t, e.breaksMisoRule = false

/-- 20_memory.md R63: only a `READ`, issued or started, stores to the receive buffer. -/
def Obligations.OnlyReadsStore : Prop :=
  ∀ (i : Instr) (s t : State), exec i s = .next t → (∀ txByte n, i ≠ .read txByte n) →
    (∀ txByte n cb ctx, i ≠ .xferStart (.read txByte n) cb ctx) → (∀ txByte n, i ≠ .xferBlocking (.read txByte n)) →
    t.rxbuf = s.rxbuf ∧ ∀ a, Memory.read t.rxbuf a = Memory.read s.rxbuf a

/-! ## Encoding and stepping -/

/-- 30_encoding.md R92, R98, R99, R101, R102, R107: decoding the spelling of a well-formed instruction gives it back, with
every operand at every value. 0x15, 0x75 and the levels of `DC` are read as the parameters of R8 (log entry 24); which commands
are well formed then is log entry 21. -/
def Obligations.DecodeEncode : Prop :=
  ∀ (cfg : Config) (i : Instr), i.wf cfg = true → decode cfg (encode cfg i) = .ok i

/-- 30_encoding.md R92 to R95: a record is read exactly: what is read and what is left make up the bytes. -/
def Obligations.RecordsAreReadExactly : Prop :=
  ∀ (bytes rest : List Byte) (i : Instr), decodeRecord bytes = .ok (i, rest) →
    (i = .endMark ∧ bytes = 0 :: rest) ∨
    ∃ reg vals, i = .regwr reg vals ∧ vals.length ≤ 254 ∧ bytes = recordBytes (reg :: vals) ++ rest

/-- Ten spellings read as what they stand for. The last two, a record and the bits of a byte, are the spec's own (30_encoding.md
R92, R101). The first eight are bare words of the opcode table read by `decodeTableWord`: their codes and bytes are the spec's
(R92, R99, R102), but how a bare word is laid out (one 0 byte the sentinel, any other single byte a host operation with its
operands zero, three bytes a wire command) is the model's choice (log entry 15). -/
def Obligations.SampleEncodings : Prop :=
  decodeTableWord 8 0b00000001 = some .busInit ∧ decodeTableWord 8 0b00000100 = some (.csRelease 0) ∧
  decodeTableWord 8 0b00010001 = some .dispInit ∧ decodeTableWord 8 0b00100001 = some .xferWait ∧
  decodeTableWord 8 0b00000111 = some (.invalid 7) ∧ decodeTableWord 8 0 = some .endMark ∧
  decodeTableWord 24 0b000101010000101001011111 = some (.colAddr 10 95) ∧
  decodeTableWord 24 0b011101010011111100111111 = some (.rowAddr 63 63) ∧
  decode Config.default (.record [0x03, 0x15, 0x0A, 0x5F]) = .ok (.regwr 0x15 [10, 95]) ∧
  decode Config.default (.bits [true, false, true, false, false, true, false, true]) = .ok (.byte 0xA5)

/-- A step runs the decoded instruction: the operation at the head of the program is taken off and `exec` runs it, unless it
holds; with nothing issued nothing happens (10_state.md R20, 70_reset_and_hazards.md R262, R283). The program as a list is the
model's form (log entry 5); that an operation that holds is a step that answers the same state is too, where 42_async.md R204
says that there is no step (log entry 7). -/
def Obligations.StepRunsTheDecodedInstruction : Prop :=
  ∀ s : State, configAccepted s.cfg = true →
    (∀ e i rest, s.program = .op e :: rest → decode s.cfg e = .ok i → holds i s = false →
      step s = exec i { s with program := rest }) ∧
    (∀ e i rest, s.program = .op e :: rest → decode s.cfg e = .ok i → holds i s = true → step s = .next s) ∧
    (s.program = [] → step s = .next s)

/-- No step stops with a fault; a step is refused only for a configuration that breaks R264 (its table condition is left to
`DISP_INIT`: log entry 9), a reset inside a bracket (log entry 8), or something placed that spells nothing. -/
def Obligations.WhatStopsAStep : Prop :=
  ∀ s : State, (∀ f, step s ≠ .fault f) ∧
    ∀ r, step s = .refused r →
      (r = .badConfiguration ∧ configAccepted s.cfg = false) ∨
      (r = .resetInOpenBracket ∧ s.sel ≠ none ∧ ∃ rest, s.program = .reset :: rest) ∨
      (∃ err e rest, r = .undecodable err ∧ s.program = .op e :: rest ∧ decode s.cfg e = .error err)
end

