-- ==== Sys2Proof/Laws/State.lean ====
section
/-! SUPPORT. What each named update does to each field of State: the changed fields, and the kept ones. -/

namespace Sys2Proof.Machine

variable (s : State)

/-! ### emit -/

@[simp] theorem State.emit_cfg (e : Event) : (s.emit e).cfg = s.cfg := rfl
@[simp] theorem State.emit_txsr (e : Event) : (s.emit e).txsr = s.txsr := rfl
@[simp] theorem State.emit_rxsr (e : Event) : (s.emit e).rxsr = s.rxsr := rfl
@[simp] theorem State.emit_bitcnt (e : Event) : (s.emit e).bitcnt = s.bitcnt := rfl
@[simp] theorem State.emit_bytecnt (e : Event) : (s.emit e).bytecnt = s.bytecnt := rfl
@[simp] theorem State.emit_tp (e : Event) : (s.emit e).tp = s.tp := rfl
@[simp] theorem State.emit_pins (e : Event) : (s.emit e).pins = s.pins := rfl
@[simp] theorem State.emit_busReady (e : Event) : (s.emit e).busReady = s.busReady := rfl
@[simp] theorem State.emit_csReady (e : Event) : (s.emit e).csReady = s.csReady := rfl
@[simp] theorem State.emit_dispReady (e : Event) : (s.emit e).dispReady = s.dispReady := rfl
@[simp] theorem State.emit_sel (e : Event) : (s.emit e).sel = s.sel := rfl
@[simp] theorem State.emit_busy (e : Event) : (s.emit e).busy = s.busy := rfl
@[simp] theorem State.emit_cb (e : Event) : (s.emit e).cb = s.cb := rfl
@[simp] theorem State.emit_ctx (e : Event) : (s.emit e).ctx = s.ctx := rfl
@[simp] theorem State.emit_fault (e : Event) : (s.emit e).fault = s.fault := rfl
@[simp] theorem State.emit_fcause (e : Event) : (s.emit e).fcause = s.fcause := rfl
@[simp] theorem State.emit_session (e : Event) : (s.emit e).session = s.session := rfl
@[simp] theorem State.emit_trace (e : Event) : (s.emit e).trace = s.trace ++ [e] := rfl
@[simp] theorem State.emit_rxbuf (e : Event) : (s.emit e).rxbuf = s.rxbuf := rfl
@[simp] theorem State.emit_env (e : Event) : (s.emit e).env = s.env := rfl
@[simp] theorem State.emit_ctxIdx (e : Event) : (s.emit e).ctxIdx = s.ctxIdx := rfl
@[simp] theorem State.emit_program (e : Event) : (s.emit e).program = s.program := rfl

/-! ### pinOutput -/

@[simp] theorem State.pinOutput_cfg (l : Line) : (s.pinOutput l).cfg = s.cfg := rfl
@[simp] theorem State.pinOutput_txsr (l : Line) : (s.pinOutput l).txsr = s.txsr := rfl
@[simp] theorem State.pinOutput_rxsr (l : Line) : (s.pinOutput l).rxsr = s.rxsr := rfl
@[simp] theorem State.pinOutput_bitcnt (l : Line) : (s.pinOutput l).bitcnt = s.bitcnt := rfl
@[simp] theorem State.pinOutput_bytecnt (l : Line) : (s.pinOutput l).bytecnt = s.bytecnt := rfl
@[simp] theorem State.pinOutput_tp (l : Line) : (s.pinOutput l).tp = s.tp := rfl
@[simp] theorem State.pinOutput_pins (l : Line) : (s.pinOutput l).pins = s.pins.put l { dir := .output, lat := (s.pins.get l).lat } := rfl
@[simp] theorem State.pinOutput_busReady (l : Line) : (s.pinOutput l).busReady = s.busReady := rfl
@[simp] theorem State.pinOutput_csReady (l : Line) : (s.pinOutput l).csReady = s.csReady := rfl
@[simp] theorem State.pinOutput_dispReady (l : Line) : (s.pinOutput l).dispReady = s.dispReady := rfl
@[simp] theorem State.pinOutput_sel (l : Line) : (s.pinOutput l).sel = s.sel := rfl
@[simp] theorem State.pinOutput_busy (l : Line) : (s.pinOutput l).busy = s.busy := rfl
@[simp] theorem State.pinOutput_cb (l : Line) : (s.pinOutput l).cb = s.cb := rfl
@[simp] theorem State.pinOutput_ctx (l : Line) : (s.pinOutput l).ctx = s.ctx := rfl
@[simp] theorem State.pinOutput_fault (l : Line) : (s.pinOutput l).fault = s.fault := rfl
@[simp] theorem State.pinOutput_fcause (l : Line) : (s.pinOutput l).fcause = s.fcause := rfl
@[simp] theorem State.pinOutput_session (l : Line) : (s.pinOutput l).session = s.session := rfl
@[simp] theorem State.pinOutput_trace (l : Line) : (s.pinOutput l).trace = s.trace ++ [.dirOut l] := rfl
@[simp] theorem State.pinOutput_rxbuf (l : Line) : (s.pinOutput l).rxbuf = s.rxbuf := rfl
@[simp] theorem State.pinOutput_env (l : Line) : (s.pinOutput l).env = s.env := rfl
@[simp] theorem State.pinOutput_ctxIdx (l : Line) : (s.pinOutput l).ctxIdx = s.ctxIdx := rfl
@[simp] theorem State.pinOutput_program (l : Line) : (s.pinOutput l).program = s.program := rfl

/-! ### pinInput -/

@[simp] theorem State.pinInput_cfg (l : Line) : (s.pinInput l).cfg = s.cfg := rfl
@[simp] theorem State.pinInput_txsr (l : Line) : (s.pinInput l).txsr = s.txsr := rfl
@[simp] theorem State.pinInput_rxsr (l : Line) : (s.pinInput l).rxsr = s.rxsr := rfl
@[simp] theorem State.pinInput_bitcnt (l : Line) : (s.pinInput l).bitcnt = s.bitcnt := rfl
@[simp] theorem State.pinInput_bytecnt (l : Line) : (s.pinInput l).bytecnt = s.bytecnt := rfl
@[simp] theorem State.pinInput_tp (l : Line) : (s.pinInput l).tp = s.tp := rfl
@[simp] theorem State.pinInput_pins (l : Line) : (s.pinInput l).pins = s.pins.put l { dir := .input, lat := (s.pins.get l).lat } := rfl
@[simp] theorem State.pinInput_busReady (l : Line) : (s.pinInput l).busReady = s.busReady := rfl
@[simp] theorem State.pinInput_csReady (l : Line) : (s.pinInput l).csReady = s.csReady := rfl
@[simp] theorem State.pinInput_dispReady (l : Line) : (s.pinInput l).dispReady = s.dispReady := rfl
@[simp] theorem State.pinInput_sel (l : Line) : (s.pinInput l).sel = s.sel := rfl
@[simp] theorem State.pinInput_busy (l : Line) : (s.pinInput l).busy = s.busy := rfl
@[simp] theorem State.pinInput_cb (l : Line) : (s.pinInput l).cb = s.cb := rfl
@[simp] theorem State.pinInput_ctx (l : Line) : (s.pinInput l).ctx = s.ctx := rfl
@[simp] theorem State.pinInput_fault (l : Line) : (s.pinInput l).fault = s.fault := rfl
@[simp] theorem State.pinInput_fcause (l : Line) : (s.pinInput l).fcause = s.fcause := rfl
@[simp] theorem State.pinInput_session (l : Line) : (s.pinInput l).session = s.session := rfl
@[simp] theorem State.pinInput_trace (l : Line) : (s.pinInput l).trace = s.trace ++ [.dirIn l] := rfl
@[simp] theorem State.pinInput_rxbuf (l : Line) : (s.pinInput l).rxbuf = s.rxbuf := rfl
@[simp] theorem State.pinInput_env (l : Line) : (s.pinInput l).env = s.env := rfl
@[simp] theorem State.pinInput_ctxIdx (l : Line) : (s.pinInput l).ctxIdx = s.ctxIdx := rfl
@[simp] theorem State.pinInput_program (l : Line) : (s.pinInput l).program = s.program := rfl

/-! ### pinSet -/

@[simp] theorem State.pinSet_cfg (l : Line) (v : Bool) : (s.pinSet l v).cfg = s.cfg := rfl
@[simp] theorem State.pinSet_txsr (l : Line) (v : Bool) : (s.pinSet l v).txsr = s.txsr := rfl
@[simp] theorem State.pinSet_rxsr (l : Line) (v : Bool) : (s.pinSet l v).rxsr = s.rxsr := rfl
@[simp] theorem State.pinSet_bitcnt (l : Line) (v : Bool) : (s.pinSet l v).bitcnt = s.bitcnt := rfl
@[simp] theorem State.pinSet_bytecnt (l : Line) (v : Bool) : (s.pinSet l v).bytecnt = s.bytecnt := rfl
@[simp] theorem State.pinSet_tp (l : Line) (v : Bool) : (s.pinSet l v).tp = s.tp := rfl
@[simp] theorem State.pinSet_pins (l : Line) (v : Bool) : (s.pinSet l v).pins = s.pins.put l { dir := (s.pins.get l).dir, lat := .level v } := rfl
@[simp] theorem State.pinSet_busReady (l : Line) (v : Bool) : (s.pinSet l v).busReady = s.busReady := rfl
@[simp] theorem State.pinSet_csReady (l : Line) (v : Bool) : (s.pinSet l v).csReady = s.csReady := rfl
@[simp] theorem State.pinSet_dispReady (l : Line) (v : Bool) : (s.pinSet l v).dispReady = s.dispReady := rfl
@[simp] theorem State.pinSet_sel (l : Line) (v : Bool) : (s.pinSet l v).sel = s.sel := rfl
@[simp] theorem State.pinSet_busy (l : Line) (v : Bool) : (s.pinSet l v).busy = s.busy := rfl
@[simp] theorem State.pinSet_cb (l : Line) (v : Bool) : (s.pinSet l v).cb = s.cb := rfl
@[simp] theorem State.pinSet_ctx (l : Line) (v : Bool) : (s.pinSet l v).ctx = s.ctx := rfl
@[simp] theorem State.pinSet_fault (l : Line) (v : Bool) : (s.pinSet l v).fault = s.fault := rfl
@[simp] theorem State.pinSet_fcause (l : Line) (v : Bool) : (s.pinSet l v).fcause = s.fcause := rfl
@[simp] theorem State.pinSet_session (l : Line) (v : Bool) : (s.pinSet l v).session = s.session := rfl
@[simp] theorem State.pinSet_trace (l : Line) (v : Bool) : (s.pinSet l v).trace = s.trace ++ [.set l v] := rfl
@[simp] theorem State.pinSet_rxbuf (l : Line) (v : Bool) : (s.pinSet l v).rxbuf = s.rxbuf := rfl
@[simp] theorem State.pinSet_env (l : Line) (v : Bool) : (s.pinSet l v).env = s.env := rfl
@[simp] theorem State.pinSet_ctxIdx (l : Line) (v : Bool) : (s.pinSet l v).ctxIdx = s.ctxIdx := rfl
@[simp] theorem State.pinSet_program (l : Line) (v : Bool) : (s.pinSet l v).program = s.program := rfl

/-! ### delay -/

@[simp] theorem State.delay_cfg (us : Nat) : (s.delay us).cfg = s.cfg := rfl
@[simp] theorem State.delay_txsr (us : Nat) : (s.delay us).txsr = s.txsr := rfl
@[simp] theorem State.delay_rxsr (us : Nat) : (s.delay us).rxsr = s.rxsr := rfl
@[simp] theorem State.delay_bitcnt (us : Nat) : (s.delay us).bitcnt = s.bitcnt := rfl
@[simp] theorem State.delay_bytecnt (us : Nat) : (s.delay us).bytecnt = s.bytecnt := rfl
@[simp] theorem State.delay_tp (us : Nat) : (s.delay us).tp = s.tp := rfl
@[simp] theorem State.delay_pins (us : Nat) : (s.delay us).pins = s.pins := rfl
@[simp] theorem State.delay_busReady (us : Nat) : (s.delay us).busReady = s.busReady := rfl
@[simp] theorem State.delay_csReady (us : Nat) : (s.delay us).csReady = s.csReady := rfl
@[simp] theorem State.delay_dispReady (us : Nat) : (s.delay us).dispReady = s.dispReady := rfl
@[simp] theorem State.delay_sel (us : Nat) : (s.delay us).sel = s.sel := rfl
@[simp] theorem State.delay_busy (us : Nat) : (s.delay us).busy = s.busy := rfl
@[simp] theorem State.delay_cb (us : Nat) : (s.delay us).cb = s.cb := rfl
@[simp] theorem State.delay_ctx (us : Nat) : (s.delay us).ctx = s.ctx := rfl
@[simp] theorem State.delay_fault (us : Nat) : (s.delay us).fault = s.fault := rfl
@[simp] theorem State.delay_fcause (us : Nat) : (s.delay us).fcause = s.fcause := rfl
@[simp] theorem State.delay_session (us : Nat) : (s.delay us).session = s.session := rfl
@[simp] theorem State.delay_trace (us : Nat) : (s.delay us).trace = s.trace ++ [.delay us] := rfl
@[simp] theorem State.delay_rxbuf (us : Nat) : (s.delay us).rxbuf = s.rxbuf := rfl
@[simp] theorem State.delay_env (us : Nat) : (s.delay us).env = s.env := rfl
@[simp] theorem State.delay_ctxIdx (us : Nat) : (s.delay us).ctxIdx = s.ctxIdx := rfl
@[simp] theorem State.delay_program (us : Nat) : (s.delay us).program = s.program := rfl

/-! ### pinGet -/

@[simp] theorem State.pinGet_cfg (l : Line) : (s.pinGet l).cfg = s.cfg := rfl
@[simp] theorem State.pinGet_txsr (l : Line) : (s.pinGet l).txsr = s.txsr := rfl
@[simp] theorem State.pinGet_rxsr (l : Line) : (s.pinGet l).rxsr = s.rxsr := rfl
@[simp] theorem State.pinGet_bitcnt (l : Line) : (s.pinGet l).bitcnt = s.bitcnt := rfl
@[simp] theorem State.pinGet_bytecnt (l : Line) : (s.pinGet l).bytecnt = s.bytecnt := rfl
@[simp] theorem State.pinGet_tp (l : Line) : (s.pinGet l).tp = s.tp := rfl
@[simp] theorem State.pinGet_pins (l : Line) : (s.pinGet l).pins = s.pins := rfl
@[simp] theorem State.pinGet_busReady (l : Line) : (s.pinGet l).busReady = s.busReady := rfl
@[simp] theorem State.pinGet_csReady (l : Line) : (s.pinGet l).csReady = s.csReady := rfl
@[simp] theorem State.pinGet_dispReady (l : Line) : (s.pinGet l).dispReady = s.dispReady := rfl
@[simp] theorem State.pinGet_sel (l : Line) : (s.pinGet l).sel = s.sel := rfl
@[simp] theorem State.pinGet_busy (l : Line) : (s.pinGet l).busy = s.busy := rfl
@[simp] theorem State.pinGet_cb (l : Line) : (s.pinGet l).cb = s.cb := rfl
@[simp] theorem State.pinGet_ctx (l : Line) : (s.pinGet l).ctx = s.ctx := rfl
@[simp] theorem State.pinGet_fault (l : Line) : (s.pinGet l).fault = s.fault := rfl
@[simp] theorem State.pinGet_fcause (l : Line) : (s.pinGet l).fcause = s.fcause := rfl
@[simp] theorem State.pinGet_session (l : Line) : (s.pinGet l).session = s.session := rfl
@[simp] theorem State.pinGet_trace (l : Line) : (s.pinGet l).trace = s.trace ++ [.get l (s.pinLevel l)] := rfl
@[simp] theorem State.pinGet_rxbuf (l : Line) : (s.pinGet l).rxbuf = s.rxbuf := rfl
@[simp] theorem State.pinGet_env (l : Line) : (s.pinGet l).env = (s.wire l).2 := rfl
@[simp] theorem State.pinGet_ctxIdx (l : Line) : (s.pinGet l).ctxIdx = s.ctxIdx := rfl
@[simp] theorem State.pinGet_program (l : Line) : (s.pinGet l).program = s.program := rfl

/-! ### storeRx -/

@[simp] theorem State.storeRx_cfg (j : Nat) (v : Byte) : (s.storeRx j v).cfg = s.cfg := rfl
@[simp] theorem State.storeRx_txsr (j : Nat) (v : Byte) : (s.storeRx j v).txsr = s.txsr := rfl
@[simp] theorem State.storeRx_rxsr (j : Nat) (v : Byte) : (s.storeRx j v).rxsr = s.rxsr := rfl
@[simp] theorem State.storeRx_bitcnt (j : Nat) (v : Byte) : (s.storeRx j v).bitcnt = s.bitcnt := rfl
@[simp] theorem State.storeRx_bytecnt (j : Nat) (v : Byte) : (s.storeRx j v).bytecnt = s.bytecnt := rfl
@[simp] theorem State.storeRx_tp (j : Nat) (v : Byte) : (s.storeRx j v).tp = s.tp := rfl
@[simp] theorem State.storeRx_pins (j : Nat) (v : Byte) : (s.storeRx j v).pins = s.pins := rfl
@[simp] theorem State.storeRx_busReady (j : Nat) (v : Byte) : (s.storeRx j v).busReady = s.busReady := rfl
@[simp] theorem State.storeRx_csReady (j : Nat) (v : Byte) : (s.storeRx j v).csReady = s.csReady := rfl
@[simp] theorem State.storeRx_dispReady (j : Nat) (v : Byte) : (s.storeRx j v).dispReady = s.dispReady := rfl
@[simp] theorem State.storeRx_sel (j : Nat) (v : Byte) : (s.storeRx j v).sel = s.sel := rfl
@[simp] theorem State.storeRx_busy (j : Nat) (v : Byte) : (s.storeRx j v).busy = s.busy := rfl
@[simp] theorem State.storeRx_cb (j : Nat) (v : Byte) : (s.storeRx j v).cb = s.cb := rfl
@[simp] theorem State.storeRx_ctx (j : Nat) (v : Byte) : (s.storeRx j v).ctx = s.ctx := rfl
@[simp] theorem State.storeRx_fault (j : Nat) (v : Byte) : (s.storeRx j v).fault = s.fault := rfl
@[simp] theorem State.storeRx_fcause (j : Nat) (v : Byte) : (s.storeRx j v).fcause = s.fcause := rfl
@[simp] theorem State.storeRx_session (j : Nat) (v : Byte) : (s.storeRx j v).session = s.session := rfl
@[simp] theorem State.storeRx_trace (j : Nat) (v : Byte) : (s.storeRx j v).trace = s.trace ++ [.store j v] := rfl
@[simp] theorem State.storeRx_rxbuf (j : Nat) (v : Byte) : (s.storeRx j v).rxbuf = Memory.write s.rxbuf j v := rfl
@[simp] theorem State.storeRx_env (j : Nat) (v : Byte) : (s.storeRx j v).env = s.env := rfl
@[simp] theorem State.storeRx_ctxIdx (j : Nat) (v : Byte) : (s.storeRx j v).ctxIdx = s.ctxIdx := rfl
@[simp] theorem State.storeRx_program (j : Nat) (v : Byte) : (s.storeRx j v).program = s.program := rfl

/-! ### setBusReady -/

@[simp] theorem State.setBusReady_cfg : (s.setBusReady).cfg = s.cfg := rfl
@[simp] theorem State.setBusReady_txsr : (s.setBusReady).txsr = s.txsr := rfl
@[simp] theorem State.setBusReady_rxsr : (s.setBusReady).rxsr = s.rxsr := rfl
@[simp] theorem State.setBusReady_bitcnt : (s.setBusReady).bitcnt = s.bitcnt := rfl
@[simp] theorem State.setBusReady_bytecnt : (s.setBusReady).bytecnt = s.bytecnt := rfl
@[simp] theorem State.setBusReady_tp : (s.setBusReady).tp = s.tp := rfl
@[simp] theorem State.setBusReady_pins : (s.setBusReady).pins = s.pins := rfl
@[simp] theorem State.setBusReady_busReady : (s.setBusReady).busReady = true := rfl
@[simp] theorem State.setBusReady_csReady : (s.setBusReady).csReady = s.csReady := rfl
@[simp] theorem State.setBusReady_dispReady : (s.setBusReady).dispReady = s.dispReady := rfl
@[simp] theorem State.setBusReady_sel : (s.setBusReady).sel = s.sel := rfl
@[simp] theorem State.setBusReady_busy : (s.setBusReady).busy = s.busy := rfl
@[simp] theorem State.setBusReady_cb : (s.setBusReady).cb = s.cb := rfl
@[simp] theorem State.setBusReady_ctx : (s.setBusReady).ctx = s.ctx := rfl
@[simp] theorem State.setBusReady_fault : (s.setBusReady).fault = s.fault := rfl
@[simp] theorem State.setBusReady_fcause : (s.setBusReady).fcause = s.fcause := rfl
@[simp] theorem State.setBusReady_session : (s.setBusReady).session = s.session := rfl
@[simp] theorem State.setBusReady_trace : (s.setBusReady).trace = s.trace := rfl
@[simp] theorem State.setBusReady_rxbuf : (s.setBusReady).rxbuf = s.rxbuf := rfl
@[simp] theorem State.setBusReady_env : (s.setBusReady).env = s.env := rfl
@[simp] theorem State.setBusReady_ctxIdx : (s.setBusReady).ctxIdx = s.ctxIdx := rfl
@[simp] theorem State.setBusReady_program : (s.setBusReady).program = s.program := rfl

/-! ### setCsReady -/

@[simp] theorem State.setCsReady_cfg (k : Nat) : (s.setCsReady k).cfg = s.cfg := rfl
@[simp] theorem State.setCsReady_txsr (k : Nat) : (s.setCsReady k).txsr = s.txsr := rfl
@[simp] theorem State.setCsReady_rxsr (k : Nat) : (s.setCsReady k).rxsr = s.rxsr := rfl
@[simp] theorem State.setCsReady_bitcnt (k : Nat) : (s.setCsReady k).bitcnt = s.bitcnt := rfl
@[simp] theorem State.setCsReady_bytecnt (k : Nat) : (s.setCsReady k).bytecnt = s.bytecnt := rfl
@[simp] theorem State.setCsReady_tp (k : Nat) : (s.setCsReady k).tp = s.tp := rfl
@[simp] theorem State.setCsReady_pins (k : Nat) : (s.setCsReady k).pins = s.pins := rfl
@[simp] theorem State.setCsReady_busReady (k : Nat) : (s.setCsReady k).busReady = s.busReady := rfl
@[simp] theorem State.setCsReady_csReady (k : Nat) : (s.setCsReady k).csReady = s.csReady.set k true := rfl
@[simp] theorem State.setCsReady_dispReady (k : Nat) : (s.setCsReady k).dispReady = s.dispReady := rfl
@[simp] theorem State.setCsReady_sel (k : Nat) : (s.setCsReady k).sel = s.sel := rfl
@[simp] theorem State.setCsReady_busy (k : Nat) : (s.setCsReady k).busy = s.busy := rfl
@[simp] theorem State.setCsReady_cb (k : Nat) : (s.setCsReady k).cb = s.cb := rfl
@[simp] theorem State.setCsReady_ctx (k : Nat) : (s.setCsReady k).ctx = s.ctx := rfl
@[simp] theorem State.setCsReady_fault (k : Nat) : (s.setCsReady k).fault = s.fault := rfl
@[simp] theorem State.setCsReady_fcause (k : Nat) : (s.setCsReady k).fcause = s.fcause := rfl
@[simp] theorem State.setCsReady_session (k : Nat) : (s.setCsReady k).session = s.session := rfl
@[simp] theorem State.setCsReady_trace (k : Nat) : (s.setCsReady k).trace = s.trace := rfl
@[simp] theorem State.setCsReady_rxbuf (k : Nat) : (s.setCsReady k).rxbuf = s.rxbuf := rfl
@[simp] theorem State.setCsReady_env (k : Nat) : (s.setCsReady k).env = s.env := rfl
@[simp] theorem State.setCsReady_ctxIdx (k : Nat) : (s.setCsReady k).ctxIdx = s.ctxIdx := rfl
@[simp] theorem State.setCsReady_program (k : Nat) : (s.setCsReady k).program = s.program := rfl

/-! ### setDispReady -/

@[simp] theorem State.setDispReady_cfg : (s.setDispReady).cfg = s.cfg := rfl
@[simp] theorem State.setDispReady_txsr : (s.setDispReady).txsr = s.txsr := rfl
@[simp] theorem State.setDispReady_rxsr : (s.setDispReady).rxsr = s.rxsr := rfl
@[simp] theorem State.setDispReady_bitcnt : (s.setDispReady).bitcnt = s.bitcnt := rfl
@[simp] theorem State.setDispReady_bytecnt : (s.setDispReady).bytecnt = s.bytecnt := rfl
@[simp] theorem State.setDispReady_tp : (s.setDispReady).tp = s.tp := rfl
@[simp] theorem State.setDispReady_pins : (s.setDispReady).pins = s.pins := rfl
@[simp] theorem State.setDispReady_busReady : (s.setDispReady).busReady = s.busReady := rfl
@[simp] theorem State.setDispReady_csReady : (s.setDispReady).csReady = s.csReady := rfl
@[simp] theorem State.setDispReady_dispReady : (s.setDispReady).dispReady = true := rfl
@[simp] theorem State.setDispReady_sel : (s.setDispReady).sel = s.sel := rfl
@[simp] theorem State.setDispReady_busy : (s.setDispReady).busy = s.busy := rfl
@[simp] theorem State.setDispReady_cb : (s.setDispReady).cb = s.cb := rfl
@[simp] theorem State.setDispReady_ctx : (s.setDispReady).ctx = s.ctx := rfl
@[simp] theorem State.setDispReady_fault : (s.setDispReady).fault = s.fault := rfl
@[simp] theorem State.setDispReady_fcause : (s.setDispReady).fcause = s.fcause := rfl
@[simp] theorem State.setDispReady_session : (s.setDispReady).session = s.session := rfl
@[simp] theorem State.setDispReady_trace : (s.setDispReady).trace = s.trace := rfl
@[simp] theorem State.setDispReady_rxbuf : (s.setDispReady).rxbuf = s.rxbuf := rfl
@[simp] theorem State.setDispReady_env : (s.setDispReady).env = s.env := rfl
@[simp] theorem State.setDispReady_ctxIdx : (s.setDispReady).ctxIdx = s.ctxIdx := rfl
@[simp] theorem State.setDispReady_program : (s.setDispReady).program = s.program := rfl

/-! ### setSel -/

@[simp] theorem State.setSel_cfg (v : Option Nat) : (s.setSel v).cfg = s.cfg := rfl
@[simp] theorem State.setSel_txsr (v : Option Nat) : (s.setSel v).txsr = s.txsr := rfl
@[simp] theorem State.setSel_rxsr (v : Option Nat) : (s.setSel v).rxsr = s.rxsr := rfl
@[simp] theorem State.setSel_bitcnt (v : Option Nat) : (s.setSel v).bitcnt = s.bitcnt := rfl
@[simp] theorem State.setSel_bytecnt (v : Option Nat) : (s.setSel v).bytecnt = s.bytecnt := rfl
@[simp] theorem State.setSel_tp (v : Option Nat) : (s.setSel v).tp = s.tp := rfl
@[simp] theorem State.setSel_pins (v : Option Nat) : (s.setSel v).pins = s.pins := rfl
@[simp] theorem State.setSel_busReady (v : Option Nat) : (s.setSel v).busReady = s.busReady := rfl
@[simp] theorem State.setSel_csReady (v : Option Nat) : (s.setSel v).csReady = s.csReady := rfl
@[simp] theorem State.setSel_dispReady (v : Option Nat) : (s.setSel v).dispReady = s.dispReady := rfl
@[simp] theorem State.setSel_sel (v : Option Nat) : (s.setSel v).sel = v := rfl
@[simp] theorem State.setSel_busy (v : Option Nat) : (s.setSel v).busy = s.busy := rfl
@[simp] theorem State.setSel_cb (v : Option Nat) : (s.setSel v).cb = s.cb := rfl
@[simp] theorem State.setSel_ctx (v : Option Nat) : (s.setSel v).ctx = s.ctx := rfl
@[simp] theorem State.setSel_fault (v : Option Nat) : (s.setSel v).fault = s.fault := rfl
@[simp] theorem State.setSel_fcause (v : Option Nat) : (s.setSel v).fcause = s.fcause := rfl
@[simp] theorem State.setSel_session (v : Option Nat) : (s.setSel v).session = s.session := rfl
@[simp] theorem State.setSel_trace (v : Option Nat) : (s.setSel v).trace = s.trace := rfl
@[simp] theorem State.setSel_rxbuf (v : Option Nat) : (s.setSel v).rxbuf = s.rxbuf := rfl
@[simp] theorem State.setSel_env (v : Option Nat) : (s.setSel v).env = s.env := rfl
@[simp] theorem State.setSel_ctxIdx (v : Option Nat) : (s.setSel v).ctxIdx = s.ctxIdx := rfl
@[simp] theorem State.setSel_program (v : Option Nat) : (s.setSel v).program = s.program := rfl

/-! ### beginTransfer -/

@[simp] theorem State.beginTransfer_cfg (c : Option Callback) (x : Context) : (s.beginTransfer c x).cfg = s.cfg := rfl
@[simp] theorem State.beginTransfer_txsr (c : Option Callback) (x : Context) : (s.beginTransfer c x).txsr = s.txsr := rfl
@[simp] theorem State.beginTransfer_rxsr (c : Option Callback) (x : Context) : (s.beginTransfer c x).rxsr = s.rxsr := rfl
@[simp] theorem State.beginTransfer_bitcnt (c : Option Callback) (x : Context) : (s.beginTransfer c x).bitcnt = s.bitcnt := rfl
@[simp] theorem State.beginTransfer_bytecnt (c : Option Callback) (x : Context) : (s.beginTransfer c x).bytecnt = s.bytecnt := rfl
@[simp] theorem State.beginTransfer_tp (c : Option Callback) (x : Context) : (s.beginTransfer c x).tp = s.tp := rfl
@[simp] theorem State.beginTransfer_pins (c : Option Callback) (x : Context) : (s.beginTransfer c x).pins = s.pins := rfl
@[simp] theorem State.beginTransfer_busReady (c : Option Callback) (x : Context) : (s.beginTransfer c x).busReady = s.busReady := rfl
@[simp] theorem State.beginTransfer_csReady (c : Option Callback) (x : Context) : (s.beginTransfer c x).csReady = s.csReady := rfl
@[simp] theorem State.beginTransfer_dispReady (c : Option Callback) (x : Context) : (s.beginTransfer c x).dispReady = s.dispReady := rfl
@[simp] theorem State.beginTransfer_sel (c : Option Callback) (x : Context) : (s.beginTransfer c x).sel = s.sel := rfl
@[simp] theorem State.beginTransfer_busy (c : Option Callback) (x : Context) : (s.beginTransfer c x).busy = true := rfl
@[simp] theorem State.beginTransfer_cb (c : Option Callback) (x : Context) : (s.beginTransfer c x).cb = c := rfl
@[simp] theorem State.beginTransfer_ctx (c : Option Callback) (x : Context) : (s.beginTransfer c x).ctx = x := rfl
@[simp] theorem State.beginTransfer_fault (c : Option Callback) (x : Context) : (s.beginTransfer c x).fault = s.fault := rfl
@[simp] theorem State.beginTransfer_fcause (c : Option Callback) (x : Context) : (s.beginTransfer c x).fcause = s.fcause := rfl
@[simp] theorem State.beginTransfer_session (c : Option Callback) (x : Context) : (s.beginTransfer c x).session = s.session := rfl
@[simp] theorem State.beginTransfer_trace (c : Option Callback) (x : Context) : (s.beginTransfer c x).trace = s.trace := rfl
@[simp] theorem State.beginTransfer_rxbuf (c : Option Callback) (x : Context) : (s.beginTransfer c x).rxbuf = s.rxbuf := rfl
@[simp] theorem State.beginTransfer_env (c : Option Callback) (x : Context) : (s.beginTransfer c x).env = s.env := rfl
@[simp] theorem State.beginTransfer_ctxIdx (c : Option Callback) (x : Context) : (s.beginTransfer c x).ctxIdx = s.ctxIdx := rfl
@[simp] theorem State.beginTransfer_program (c : Option Callback) (x : Context) : (s.beginTransfer c x).program = s.program := rfl

/-! ### endTransfer -/

@[simp] theorem State.endTransfer_cfg : (s.endTransfer).cfg = s.cfg := rfl
@[simp] theorem State.endTransfer_txsr : (s.endTransfer).txsr = s.txsr := rfl
@[simp] theorem State.endTransfer_rxsr : (s.endTransfer).rxsr = s.rxsr := rfl
@[simp] theorem State.endTransfer_bitcnt : (s.endTransfer).bitcnt = s.bitcnt := rfl
@[simp] theorem State.endTransfer_bytecnt : (s.endTransfer).bytecnt = s.bytecnt := rfl
@[simp] theorem State.endTransfer_tp : (s.endTransfer).tp = s.tp := rfl
@[simp] theorem State.endTransfer_pins : (s.endTransfer).pins = s.pins := rfl
@[simp] theorem State.endTransfer_busReady : (s.endTransfer).busReady = s.busReady := rfl
@[simp] theorem State.endTransfer_csReady : (s.endTransfer).csReady = s.csReady := rfl
@[simp] theorem State.endTransfer_dispReady : (s.endTransfer).dispReady = s.dispReady := rfl
@[simp] theorem State.endTransfer_sel : (s.endTransfer).sel = s.sel := rfl
@[simp] theorem State.endTransfer_busy : (s.endTransfer).busy = false := rfl
@[simp] theorem State.endTransfer_cb : (s.endTransfer).cb = s.cb := rfl
@[simp] theorem State.endTransfer_ctx : (s.endTransfer).ctx = s.ctx := rfl
@[simp] theorem State.endTransfer_fault : (s.endTransfer).fault = s.fault := rfl
@[simp] theorem State.endTransfer_fcause : (s.endTransfer).fcause = s.fcause := rfl
@[simp] theorem State.endTransfer_session : (s.endTransfer).session = s.session := rfl
@[simp] theorem State.endTransfer_trace : (s.endTransfer).trace = s.trace := rfl
@[simp] theorem State.endTransfer_rxbuf : (s.endTransfer).rxbuf = s.rxbuf := rfl
@[simp] theorem State.endTransfer_env : (s.endTransfer).env = s.env := rfl
@[simp] theorem State.endTransfer_ctxIdx : (s.endTransfer).ctxIdx = s.ctxIdx := rfl
@[simp] theorem State.endTransfer_program : (s.endTransfer).program = s.program := rfl

end Sys2Proof.Machine
end

