-- ==== Sys2Proof/Laws/Ops.lean ====
section
/-! SUPPORT. What the shared operations over memory, lines, the environment and an operation's checks do. -/

namespace Sys2Proof.Machine

/-! ### Memory -/

theorem Memory.read_write_same (m : Memory) (a : Nat) (v : Byte) : Memory.read (Memory.write m a v) a = some v := by
  induction m with
  | nil => simp [Memory.write, Memory.read]
  | cons c rest ih =>
    obtain ⟨b, u⟩ := c
    simp only [Memory.write]
    split
    · simp [Memory.read]
    · split
      · simp [Memory.read]
      · rename_i h₁ h₂
        simp [Memory.read, Ne.symm h₂, ih]

theorem Memory.read_write_other (m : Memory) (a b : Nat) (v : Byte) (h : b ≠ a) :
    Memory.read (Memory.write m a v) b = Memory.read m b := by
  induction m with
  | nil => simp [Memory.write, Memory.read, Ne.symm h]
  | cons c rest ih =>
    obtain ⟨d, u⟩ := c
    simp only [Memory.write]
    split
    · simp [Memory.read, Ne.symm h]
    · split
      · rename_i h₁ h₂
        subst h₂
        simp [Memory.read, Ne.symm h]
      · by_cases hd : d = b
        · simp [Memory.read, hd]
        · simp [Memory.read, hd, ih]

theorem Memory.risingFrom_write (m : Memory) (a : Nat) (v : Byte) (lo : Option Nat) (hlo : ∀ x, lo = some x → x < a)
    (h : Memory.risingFrom lo m = true) : Memory.risingFrom lo (Memory.write m a v) = true := by
  induction m generalizing lo with
  | nil => cases lo <;> simp_all [Memory.write, Memory.risingFrom]
  | cons c rest ih =>
    obtain ⟨b, u⟩ := c
    have hb : Memory.risingFrom (some b) rest = true := by
      cases lo <;> simp_all [Memory.risingFrom]
    simp only [Memory.write]
    split
    · rename_i hab
      cases lo <;> simp_all [Memory.risingFrom]
    · split
      · rename_i h₁ h₂
        subst h₂
        cases lo <;> simp_all [Memory.risingFrom]
      · rename_i h₁ h₂
        have hrest := ih (some b) (by intro x hx; cases hx; omega) hb
        cases lo <;> simp_all [Memory.risingFrom]

/-- A store keeps the canonical form. -/
theorem Memory.wf_write (m : Memory) (a : Nat) (v : Byte) (h : Memory.wf m = true) :
    Memory.wf (Memory.write m a v) = true :=
  Memory.risingFrom_write m a v none (by simp) h

/-! ### Lines -/

@[simp] theorem Pins.get_put_same (p : Pins) (l : Line) (q : Pin) (h : ∀ k, l = .cs k → k < p.cs.length) :
    (p.put l q).get l = q := by
  cases l <;> simp_all [Pins.get, Pins.put]

@[simp] theorem Pins.get_put_other (p : Pins) (l m : Line) (q : Pin) (h : m ≠ l) : (p.put l q).get m = p.get m := by
  cases l <;> cases m <;> simp_all [Pins.get, Pins.put, eq_comm]

/-! ### The environment -/

@[simp] theorem Env.take_length (n : Nat) (e : Env) : (e.take n).length = n := by
  induction n generalizing e with
  | zero => rfl
  | succ n ih => simp [Env.take, ih]

theorem Env.after_add (m n : Nat) (e : Env) : e.after (m + n) = (e.after m).after n := by
  induction m generalizing e with
  | zero => simp [Env.after]
  | succ m ih => rw [Nat.succ_add]; simp [Env.after, ih]

/-- Answers lined up are what `PinGet`s get (R14). -/
theorem Env.take_answers (bs rest : List Bool) (n : Nat) :
    Env.take bs.length { answers := bs ++ rest, asked := n } = bs := by
  induction bs with
  | nil => rfl
  | cons b bs ih => simp [Env.take, Env.draw, ih]

/-- An undriven line reads as the environment answers (R33). -/
theorem State.wire_input (s : State) (l : Line) (h : (s.pins.get l).dir = .input) : s.wire l = s.env.draw := by
  simp [State.wire, h]

/-! ### Checks and operations -/

@[simp] theorem firstFailing_nil : firstFailing [] = .go := rfl

@[simp] theorem firstFailing_cons (b : Bool) (c : Cause) (rest : List (Bool × Cause)) :
    firstFailing ((b, c) :: rest) = if b then .raise c else firstFailing rest := by
  cases b <;> rfl

@[simp] theorem Verdict.afterHold_false (v : Verdict) : v.afterHold false = v := rfl

@[simp] theorem Verdict.beforeHold_false (v : Verdict) : v.beforeHold false = v := by cases v <;> rfl

/-- `raise` when no fault is recorded (R226). -/
theorem State.raise_of_clear (s : State) (c : Cause) (h : s.fault = false) :
    s.raise c = { s with fault := true, fcause := c.code } := by
  simp [State.raise, h]

theorem operate_fault (v : Verdict) (body : State → State) (s : State) (h : s.fault = true) :
    operate v body s = .next s := by
  simp [operate, h]

theorem operate_go (body : State → State) (s : State) (h : s.fault = false) :
    operate .go body s = .next (body s) := by
  simp [operate, h]

theorem operate_hold (body : State → State) (s : State) : operate .hold body s = .next s := by
  simp [operate]

theorem operate_raise (c : Cause) (body : State → State) (s : State) (h : s.fault = false) :
    operate (.raise c) body s = .next { s with fault := true, fcause := c.code } := by
  simp [operate, h, State.raise]

/-- All an operation can do (R120): nothing, its body, or record a fault. It always answers a next state. -/
theorem operate_cases (v : Verdict) (body : State → State) (s : State) :
    operate v body s = .next s ∨ (s.fault = false ∧ v = .go ∧ operate v body s = .next (body s)) ∨
      (s.fault = false ∧ ∃ c, v = .raise c ∧ operate v body s = .next { s with fault := true, fcause := c.code }) := by
  by_cases h : s.fault = true
  · exact .inl (operate_fault v body s h)
  · have h' : s.fault = false := by simpa using h
    cases v with
    | go => exact .inr (.inl ⟨h', rfl, operate_go body s h'⟩)
    | hold => exact .inl (operate_hold body s)
    | raise c => exact .inr (.inr ⟨h', c, rfl, operate_raise c body s h'⟩)

/-- All an operation over a table can do: as `operate_cases`, or run out of the table. -/
theorem operateTable_cases (v : Verdict) (body : State → Option State) (s : State) :
    operateTable v body s = .next s ∨
      (s.fault = false ∧ v = .go ∧ ((∃ t, body s = some t ∧ operateTable v body s = .next t) ∨
        (body s = none ∧ operateTable v body s = .fault .fetchOutsideTable))) ∨
      (s.fault = false ∧ ∃ c, v = .raise c ∧ operateTable v body s = .next { s with fault := true, fcause := c.code }) := by
  by_cases h : s.fault = true
  · exact .inl (by simp [operateTable, h])
  · have h' : s.fault = false := by simpa using h
    cases v with
    | go =>
      cases hb : body s with
      | some t => exact .inr (.inl ⟨h', rfl, .inl ⟨t, rfl, by simp [operateTable, h', hb]⟩⟩)
      | none => exact .inr (.inl ⟨h', rfl, .inr ⟨rfl, by simp [operateTable, h', hb]⟩⟩)
    | hold => exact .inl (by simp [operateTable])
    | raise c => exact .inr (.inr ⟨h', c, rfl, by simp [operateTable, h', State.raise]⟩)

end Sys2Proof.Machine
end

