-- ==== Sys2Proof/Laws/Transfer.lean ====
section
/-! SUPPORT. The byte shifter and the transfers in closed form (40_transport.md R128 to R131, 42_async.md R202, R206). -/

namespace Sys2Proof.Machine

/-- One bit time (R128). -/
theorem State.bitTime_eq (s : State) (i : Nat) (h : MisoReleased s) :
    s.bitTime i =
      { s with
        rxsr := if s.cfg.hasMiso then shiftIn s.rxsr s.env.draw.1 else s.rxsr
        bitcnt := BitVec.ofNat 3 i
        pins := s.pins.shifted (bitOf s.txsr i)
        env := if s.cfg.hasMiso then s.env.draw.2 else s.env
        trace := s.trace ++ bitEvents s.cfg (bitOf s.txsr i) s.env.draw.1 } := by
  cases hm : s.cfg.hasMiso
  · simp [State.bitTime, hm, State.pinSet, State.delay, State.emit, Pins.put, Pins.get, Pins.shifted, bitEvents]
  · have hd := h hm
    simp [State.bitTime, hm, State.pinSet, State.delay, State.emit, Pins.put, Pins.get, Pins.shifted, bitEvents,
      State.sampleMiso, State.pinGet, State.pinLevel, State.wire, hd]

/-- Bits `n - 1` down to 0 of a byte. -/
def bitsBelow (b : Byte) : Nat → List Bool
  | 0 => []
  | n + 1 => bitOf b n :: bitsBelow b n

theorem bitsBelow_eight (b : Byte) : bitsBelow b 8 = byteBits b := rfl

/-- With no data-in line the answers do not matter (R128). -/
theorem bitEvents_of_no_miso (cfg : Config) (b a a' : Bool) (h : cfg.hasMiso = false) :
    bitEvents cfg b a = bitEvents cfg b a' := by
  simp [bitEvents, h]

theorem bitsEvents_of_no_miso (cfg : Config) (h : cfg.hasMiso = false) (bs as as' : List Bool)
    (hl : as.length = as'.length) : bitsEvents cfg bs as = bitsEvents cfg bs as' := by
  induction bs generalizing as as' with
  | nil => cases as <;> cases as' <;> rfl
  | cons b bs ih =>
    cases as with
    | nil => cases as' with
      | nil => rfl
      | cons => simp at hl
    | cons a as => cases as' with
      | nil => simp at hl
      | cons a' as' =>
        simp only [bitsEvents]
        rw [bitEvents_of_no_miso cfg b a a' h, ih as as' (by simpa using hl)]

theorem State.shiftBits_eq (s : State) (n : Nat) (h : MisoReleased s) :
    s.shiftBits (n + 1) =
      { s with
        rxsr := if s.cfg.hasMiso then (s.env.take (n + 1)).foldl shiftIn s.rxsr else s.rxsr
        bitcnt := 0
        pins := s.pins.shifted (bitOf s.txsr 0)
        env := s.env.after (if s.cfg.hasMiso then n + 1 else 0)
        trace := s.trace ++ bitsEvents s.cfg (bitsBelow s.txsr (n + 1)) (s.env.take (n + 1)) } := by
  induction n generalizing s with
  | zero =>
    rw [State.shiftBits, State.shiftBits, State.bitTime_eq s 0 h]
    cases hm : s.cfg.hasMiso <;> simp [Env.take, Env.after, bitsBelow, bitsEvents]
  | succ n ih =>
    rw [State.shiftBits, ih]
    · rw [State.bitTime_eq s _ h]
      cases hm : s.cfg.hasMiso
      · have := bitsEvents_of_no_miso s.cfg hm (bitsBelow s.txsr (n + 1)) (s.env.take (n + 1))
          (Env.take (n + 1) s.env.draw.2) (by simp)
        simp [Env.after, Pins.shifted, bitsBelow, Env.take, bitsEvents] at this ⊢
        exact this
      · simp [Env.after, Pins.shifted, bitsBelow, Env.take, bitsEvents]
    · rw [State.bitTime_eq s _ h]
      exact fun hm => h hm

/-- `ShiftByte` (R128). -/
theorem State.shiftByte_eq (s : State) (b : Byte) (h : MisoReleased s) : s.shiftByte b = afterByte s b := by
  unfold State.shiftByte
  rw [State.shiftBits_eq]
  · simp [afterByte, received, samplesPerByte, byteEvents, bitsBelow_eight, bitsToByte]
  · exact h

/-! ### Loops -/

@[simp] theorem Pins.shifted_shifted (p : Pins) (a b : Bool) : (p.shifted a).shifted b = p.shifted b := rfl

@[simp] theorem Pins.shifted_miso (p : Pins) (a : Bool) : (p.shifted a).miso = p.miso := rfl

/-- The loop of `WRITE` over a non-empty buffer, whose last byte is `last` (R130). -/
theorem State.writeBytes_eq (s : State) (j : Nat) (b last : Byte) (rest : List Byte) (h : MisoReleased s)
    (hl : (b :: rest).getLast? = some last) :
    s.writeBytes j (b :: rest) =
      { s with
        txsr := last
        rxsr := received s.cfg (s.env.after (samplesPerByte s.cfg * rest.length))
        bitcnt := 0
        bytecnt := j + rest.length
        pins := s.pins.shifted (bitOf last 0)
        env := s.env.after (samplesPerByte s.cfg * (rest.length + 1))
        trace := s.trace ++ bytesEvents s.cfg (b :: rest) s.env } := by
  induction rest generalizing s j b with
  | nil =>
    obtain rfl : b = last := by simpa using hl
    rw [State.writeBytes, State.writeBytes, State.shiftByte_eq]
    · simp [afterByte, Env.after, bytesEvents]
    · exact h
  | cons c rest ih =>
    rw [State.writeBytes, State.shiftByte_eq, ih]
    · simp only [afterByte, bytesEvents, List.append_assoc, State.mk.injEq, true_and, and_true, Pins.shifted_shifted,
        List.length_cons, ← Env.after_add]
      refine ⟨?_, ?_, ?_⟩
      · rw [Nat.mul_add, Nat.mul_one, Nat.add_comm]
      · omega
      · congr 1; ring
    · exact h
    · simpa using hl
    · exact h

/-- The byte loop of `WRITE buf` (R130). -/
theorem State.transferBytes_write (s : State) (buf : List Byte) (h : MisoReleased s) :
    s.transferBytes (.write buf) = afterBytes s buf := by
  cases buf with
  | nil => simp [State.transferBytes, State.writeBytes, afterBytes, Env.after, bytesEvents, Pins.written]
  | cons b rest =>
    obtain ⟨last, hl⟩ : ∃ last, (b :: rest).getLast? = some last := ⟨_, List.getLast?_eq_some_getLast (by simp)⟩
    rw [State.transferBytes, State.writeBytes_eq _ _ _ last _ h hl]
    simp [afterBytes, hl, Pins.written]

/-- The loop of `READ` over at least one byte (R131). -/
theorem State.readBytes_eq (s : State) (tx : Byte) (j n : Nat) (h : MisoReleased s) :
    s.readBytes tx j (n + 1) =
      { s with
        txsr := tx
        rxsr := received s.cfg (s.env.after (samplesPerByte s.cfg * n))
        bitcnt := 0
        bytecnt := j + n
        pins := s.pins.shifted (bitOf tx 0)
        env := s.env.after (samplesPerByte s.cfg * (n + 1))
        rxbuf := Memory.writeAll s.rxbuf j (receivedBytes s.cfg (n + 1) s.env)
        trace := s.trace ++ readEvents s.cfg tx j (n + 1) s.env } := by
  induction n generalizing s j with
  | zero =>
    rw [State.readBytes, State.readBytes, State.readByte, State.shiftByte_eq]
    · simp [afterByte, Env.after, readEvents, State.storeRx, State.emit, receivedBytes, Memory.writeAll]
    · exact h
  | succ n ih =>
    rw [State.readBytes, State.readByte, State.shiftByte_eq, ih]
    · simp only [afterByte, readEvents, State.storeRx, State.emit, List.append_assoc, State.mk.injEq, true_and, and_true,
        Pins.shifted_shifted, ← Env.after_add, receivedBytes, Memory.writeAll, List.cons_append, List.nil_append]
      refine ⟨?_, ?_, ?_⟩
      · rw [Nat.mul_add, Nat.mul_one, Nat.add_comm]
      · omega
      · congr 1; ring
    · exact h
    · exact h

/-- The byte loop of a transfer (R130, R131). -/
theorem State.transferBytes_eq (s : State) (t : Transfer) (h : MisoReleased s) :
    s.transferBytes t = afterTransfer s t := by
  cases t with
  | write buf => exact State.transferBytes_write s buf h
  | read tx n =>
    cases n with
    | zero => simp [State.transferBytes, State.readBytes, afterTransfer, afterRead, afterBytes, readEvents,
        receivedBytes, Memory.writeAll, Env.after, Pins.written]
    | succ n =>
      rw [State.transferBytes, State.readBytes_eq s tx 0 n h]
      simp [afterTransfer, afterRead, afterBytes, List.getLast?_replicate, Pins.written]

/-- The body of `XFER_START` (R202, R203). -/
theorem State.startTransfer_eq (s : State) (t : Transfer) (cb : Option Callback) (ctx : Context) (h : MisoReleased s) :
    s.startTransfer t cb ctx = afterStart s t cb ctx := by
  unfold State.startTransfer
  rw [State.transferBytes_eq]
  · cases t <;> cases cb <;>
      simp [afterStart, afterTransfer, afterRead, afterBytes, State.beginTransfer, State.completeTransfer,
        State.invokeCallback, State.endTransfer, callbackEvents, State.emit]
  · exact h

/-- A transfer as the host or a bracket issues it, with or without ASYNC (R206). -/
theorem State.transfer_eq (s : State) (t : Transfer) (h : MisoReleased s) :
    s.transfer t = afterIssued s t := by
  unfold State.transfer afterIssued
  split
  · unfold State.blockingTransfer
    rw [State.startTransfer_eq]
    · cases t <;> rfl
    · exact h
  · exact State.transferBytes_eq s t h

end Sys2Proof.Machine
end

