-- ==== Sys2Proof/Laws/Sequencer.lean ====
section
/-! SUPPORT. Brackets and tables in closed form (41_sequencer.md R161, R164 to R166). -/

namespace Sys2Proof.Machine

/-- Writing a chip-select latch twice. -/
theorem Pins.cs_set_twice (l : List Pin) (k : Nat) (v w : Bool) :
    ((l.set k { dir := (l.getD k {}).dir, lat := .level v }).set k
        { dir := ((l.set k { dir := (l.getD k {}).dir, lat := .level v }).getD k {}).dir, lat := .level w }) =
      l.set k { dir := (l.getD k {}).dir, lat := .level w } := by
  by_cases hk : k < l.length
  · simp [hk]
  · simp [List.set_eq_of_length_le (Nat.le_of_not_lt hk)]

/-- `CS_ASSERT k` (R124). -/
theorem State.csAssert_eq (s : State) (k : Nat) :
    s.csAssert k =
      { s with
        pins :=
          { s.pins with
            sck := { dir := .output, lat := .level false }
            mosi := { dir := .output, lat := .level true }
            cs := s.pins.cs.set k { dir := (s.pin (.cs k)).dir, lat := .level s.cfg.csActive } }
        sel := some k
        trace := s.trace ++ assertEvents s.cfg k } := by
  simp [State.csAssert, State.pinSet, State.pinOutput, State.delay, State.emit, State.setSel, Pins.put, Pins.get,
    State.pin, assertEvents]

/-- `CS_RELEASE k` (R126). -/
theorem State.csRelease_eq (s : State) (k : Nat) :
    s.csRelease k =
      { s with
        pins :=
          { s.pins with
            sck := { s.pins.sck with dir := .input }
            mosi := { s.pins.mosi with dir := .input }
            cs := s.pins.cs.set k { dir := (s.pin (.cs k)).dir, lat := .level (!s.cfg.csActive) } }
        sel := none
        trace := s.trace ++ releaseEvents s.cfg k } := by
  simp [State.csRelease, State.pinSet, State.pinInput, State.emit, State.setSel, Pins.put, Pins.get, State.pin,
    releaseEvents]

/-- The pins a transfer leaves, after `CS_ASSERT` set clock low and data-out high. -/
theorem afterIssued_pins (s : State) (buf : List Byte) :
    (afterIssued s (.write buf)).pins = s.pins.written buf := by
  unfold afterIssued
  split <;> rfl

/-- A `WRITE` appends the bit times of its bytes, with or without ASYNC (R200). -/
theorem afterIssued_trace (s : State) (buf : List Byte) :
    (afterIssued s (.write buf)).trace = s.trace ++ bytesEvents s.cfg buf s.env := by
  unfold afterIssued
  split
  · simp [afterBlocking, afterStart, afterTransfer, afterBytes, callbackEvents]
  · rfl

@[simp] theorem afterIssued_cfg (s : State) (t : Transfer) : (afterIssued s t).cfg = s.cfg := by
  unfold afterIssued
  cases t <;> split <;> rfl

/-- A `WRITE` does not depend on, and does not touch, `SEL`; and its events are appended to any trace. -/
theorem afterIssued_sel_pins_trace (s : State) (buf : List Byte) (pins : Pins) (sel : Option Nat) (tr : List Event) :
    afterIssued { s with pins := pins, sel := sel, trace := tr } (.write buf) =
      { afterIssued s (.write buf) with
        sel := sel
        pins := pins.written buf
        trace := tr ++ bytesEvents s.cfg buf s.env } := by
  unfold afterIssued
  split
  · simp [afterBlocking, afterStart, afterTransfer, afterBytes, callbackEvents]
  · rfl

/-- `Bracket(bytes)` (R161). -/
theorem State.bracket_eq (s : State) (bytes : List Byte) (h : MisoReleased s) :
    s.bracket bytes = afterBracket s bytes := by
  unfold State.bracket
  rw [State.csAssert_eq]
  simp only []
  rw [State.transfer_eq]
  · have hcs := Pins.cs_set_twice s.pins.cs s.cfg.csDisp s.cfg.csActive (!s.cfg.csActive)
    rw [afterIssued_sel_pins_trace, State.csRelease_eq]
    simp only [State.pin, Pins.get] at hcs ⊢
    unfold afterBracket
    cases hb : bytes.getLast? with
    | none =>
      obtain rfl : bytes = [] := by simpa using hb
      simp only [hcs, State.pin, Pins.get, bracketEvents, bytesEvents, afterIssued_cfg, List.append_assoc,
        List.append_nil, List.isEmpty_nil, Bool.not_true, Pins.written, hb]
    | some last =>
      have he : bytes.isEmpty = false := by cases bytes <;> simp_all
      simp only [hcs, State.pin, Pins.get, bracketEvents, afterIssued_cfg, List.append_assoc, he, Bool.not_false,
        Pins.shifted, Pins.written, hb]
  · exact h

@[simp] theorem afterBracket_cfg (s : State) (bytes : List Byte) : (afterBracket s bytes).cfg = s.cfg := by
  unfold afterBracket afterIssued
  split <;> rfl

@[simp] theorem afterBracket_miso (s : State) (bytes : List Byte) : (afterBracket s bytes).pins.miso = s.pins.miso := rfl

@[simp] theorem afterBracket_env (s : State) (bytes : List Byte) :
    (afterBracket s bytes).env = s.env.after (samplesPerByte s.cfg * bytes.length) := by
  unfold afterBracket afterIssued
  split <;> rfl

theorem MisoReleased.afterBracket {s : State} (h : MisoReleased s) (bytes : List Byte) :
    MisoReleased (afterBracket s bytes) := by
  intro hm
  rw [afterBracket_cfg] at hm
  exact h hm

/-- `REGWR` (R166). -/
theorem State.regwr_eq (s : State) (reg : Byte) (vals : List Byte) (h : MisoReleased s) :
    s.regwr reg vals = afterRecord s (reg :: vals) := by
  unfold State.regwr afterRecord
  simp only []
  rw [State.bracket_eq s _ h]
  have : (Machine.afterBracket s (reg :: vals)).tp = s.tp := by
    unfold Machine.afterBracket afterIssued
    split <;> rfl
  rw [this]
  rfl

/-- A legal record at the front of a byte string is read back, whatever follows it (R92, R93). -/
theorem decodeRecord_recordBytes (reg : Byte) (vals more : List Byte) (h : vals.length ≤ 254) :
    decodeRecord (recordBytes (reg :: vals) ++ more) = .ok (.regwr reg vals, more) := by
  have hn : (BitVec.ofNat 8 (vals.length + 1)).toNat = vals.length + 1 := by
    rw [BitVec.toNat_ofNat]; omega
  have hz : BitVec.ofNat 8 (vals.length + 1) ≠ 0 := by
    intro hc
    rw [hc] at hn
    simp at hn
  simp only [recordBytes, List.length_cons, List.cons_append, decodeRecord]
  rw [if_neg hz, hn]
  simp

/-- Fetching at the offset of a record (R95). -/
theorem fetchRecord_record (pre more : List Byte) (reg : Byte) (vals : List Byte) (h : vals.length ≤ 254) :
    fetchRecord (pre ++ (recordBytes (reg :: vals) ++ more)) pre.length = some (.regwr reg vals) := by
  simp [fetchRecord, decodeRecord_recordBytes _ _ _ h]

/-- Fetching at the offset of the sentinel (R94). -/
theorem fetchRecord_sentinel (pre more : List Byte) : fetchRecord (pre ++ 0 :: more) pre.length = some .endMark := by
  simp [fetchRecord, decodeRecord]

/-- The interpreter runs the records before the sentinel in order and stops with `TP` at the sentinel (R164). -/
theorem State.runTable_records (records : List (List Byte)) (hr : ∀ wire ∈ records, legalRecord wire) (s : State)
    (pre tail : List Byte) (fuel : Nat) (hf : records.length < fuel) (htp : s.tp = pre.length) (h : MisoReleased s) :
    s.runTable (pre ++ (records.flatMap recordBytes ++ 0 :: tail)) fuel = some (afterRecords s records) := by
  induction records generalizing s pre fuel with
  | nil =>
    obtain ⟨f, rfl⟩ : ∃ f, fuel = f + 1 := ⟨fuel - 1, by simp at hf; omega⟩
    rw [List.flatMap_nil, List.nil_append, State.runTable, htp, fetchRecord_sentinel]
    rfl
  | cons wire rest ih =>
    obtain ⟨f, rfl⟩ : ∃ f, fuel = f + 1 := ⟨fuel - 1, by simp at hf; omega⟩
    obtain ⟨h1, h2⟩ := hr wire (by simp)
    obtain ⟨reg, vals, rfl⟩ : ∃ reg vals, wire = reg :: vals := by
      cases wire with
      | nil => simp at h1
      | cons reg vals => exact ⟨reg, vals, rfl⟩
    have hfetch := fetchRecord_record pre (rest.flatMap recordBytes ++ 0 :: tail) reg vals
      (by rw [List.length_cons] at h2; omega)
    rw [List.flatMap_cons, List.append_assoc, State.runTable, htp, hfetch]
    simp only []
    rw [State.regwr_eq s reg vals h, ← List.append_assoc]
    have := ih (fun w hw => hr w (by simp [hw])) (afterRecord s (reg :: vals)) (pre ++ recordBytes (reg :: vals)) f
      (by simpa using hf) (by simp [afterRecord, htp, recordBytes]; omega) (h.afterBracket _)
    rw [this]
    rfl

end Sys2Proof.Machine
end

