-- ==== Sys2Proof/Laws/Frames.lean ====
section
/-! SUPPORT. What transfers and brackets leave unchanged, in EVERY state: the closed forms of Laws/Transfer.lean without
their premise on the data-in line. -/

namespace Sys2Proof.Machine

/-- The events a transfer appends: clock and data-out levels, data-in samples, delays, stores (R128, R131). -/
def Event.ofTransfer : Event → Bool
  | .set .sck _ => true
  | .set .mosi _ => true
  | .get .miso _ => true
  | .delay _ => true
  | .store _ _ => true
  | _ => false

/-- `t` is `s` after some transfer: only the shifter registers, the levels of clock and data-out, the environment, the
receive buffer and the trace may differ. -/
def TransferFrame (s t : State) : Prop :=
  ∃ tx rx bc n buf env rxbuf ev, (∀ e ∈ ev, Event.ofTransfer e = true) ∧
    t = { s with
      txsr := tx, rxsr := rx, bitcnt := bc, bytecnt := n, pins := s.pins.written buf, env := env, rxbuf := rxbuf,
      trace := s.trace ++ ev }

theorem Pins.written_written (p : Pins) (a b : List Byte) :
    (p.written a).written b = p.written (if b.isEmpty then a else b) := by
  cases hb : b.getLast? with
  | none =>
    obtain rfl : b = [] := by simpa using hb
    simp [Pins.written]
  | some y =>
    have he : b.isEmpty = false := by cases b <;> simp_all
    cases ha : a.getLast? <;> simp [Pins.written, hb, ha, he]

theorem TransferFrame.refl (s : State) : TransferFrame s s :=
  ⟨s.txsr, s.rxsr, s.bitcnt, s.bytecnt, [], s.env, s.rxbuf, [], by simp, by simp [Pins.written]⟩

theorem TransferFrame.trans {s t u : State} (h₁ : TransferFrame s t) (h₂ : TransferFrame t u) : TransferFrame s u := by
  obtain ⟨tx, rx, bc, n, buf, env, rxbuf, ev, hev, rfl⟩ := h₁
  obtain ⟨tx', rx', bc', n', buf', env', rxbuf', ev', hev', rfl⟩ := h₂
  refine ⟨tx', rx', bc', n', _, env', rxbuf', ev ++ ev', ?_, by rw [Pins.written_written, List.append_assoc]⟩
  intro e he
  rcases List.mem_append.1 he with he | he
  · exact hev e he
  · exact hev' e he

/-- One bit time, whatever the data-in line is (R128). -/
theorem State.bitTime_frame (s : State) (i : Nat) :
    ∃ rx env ev, (∀ e ∈ ev, Event.ofTransfer e = true) ∧
      s.bitTime i =
        { s with
          rxsr := rx, bitcnt := BitVec.ofNat 3 i, pins := s.pins.shifted (bitOf s.txsr i), env := env,
          trace := s.trace ++ ev } := by
  cases hm : s.cfg.hasMiso
  · exact ⟨s.rxsr, s.env, [.set .sck false, .set .mosi (bitOf s.txsr i), .delay s.cfg.tHalf, .set .sck true,
      .delay s.cfg.tHalf], by simp [Event.ofTransfer], by
      simp [State.bitTime, hm, State.pinSet, State.delay, State.emit, Pins.put, Pins.get, Pins.shifted]⟩
  · exact ⟨shiftIn s.rxsr (s.pinLevel .miso), (s.wire .miso).2,
      [.set .sck false, .set .mosi (bitOf s.txsr i), .delay s.cfg.tHalf, .get .miso (s.pinLevel .miso), .set .sck true,
      .delay s.cfg.tHalf], by simp [Event.ofTransfer], by
      simp [State.bitTime, hm, State.pinSet, State.delay, State.emit, Pins.put, Pins.get, Pins.shifted,
        State.sampleMiso, State.pinGet, State.pinLevel, State.wire]⟩

theorem State.shiftBits_frame (s : State) (n : Nat) : TransferFrame s (s.shiftBits n) := by
  induction n generalizing s with
  | zero => exact .refl s
  | succ n ih =>
    refine .trans ?_ (ih (s.bitTime n))
    obtain ⟨rx, env, ev, hev, he⟩ := s.bitTime_frame n
    refine ⟨s.txsr, rx, BitVec.ofNat 3 n, s.bytecnt, [if bitOf s.txsr n then 1 else 0], env, s.rxbuf, ev, hev, ?_⟩
    rw [he]
    cases hb : bitOf s.txsr n <;> simp [Pins.written, bitOf]

theorem State.shiftByte_frame (s : State) (b : Byte) : TransferFrame s (s.shiftByte b) := by
  refine .trans ?_ (State.shiftBits_frame _ 8)
  exact ⟨b, 0, s.bitcnt, s.bytecnt, [], s.env, s.rxbuf, [], by simp, by simp [Pins.written]⟩

theorem TransferFrame.setBytecnt (s : State) (j : Nat) : TransferFrame s { s with bytecnt := j } :=
  ⟨s.txsr, s.rxsr, s.bitcnt, j, [], s.env, s.rxbuf, [], by simp, by simp [Pins.written]⟩

theorem State.writeBytes_frame (s : State) (j : Nat) (buf : List Byte) : TransferFrame s (s.writeBytes j buf) := by
  induction buf generalizing s j with
  | nil => exact .refl s
  | cons b rest ih => exact ((TransferFrame.setBytecnt s j).trans (State.shiftByte_frame _ b)).trans (ih _ _)

theorem State.readBytes_frame (s : State) (tx : Byte) (j n : Nat) : TransferFrame s (s.readBytes tx j n) := by
  induction n generalizing s j with
  | zero => exact .refl s
  | succ n ih =>
    refine .trans ?_ (ih _ _)
    refine ((TransferFrame.setBytecnt s j).trans (State.shiftByte_frame _ tx)).trans ?_
    exact ⟨_, _, _, _, [], _, _, [.store j (State.shiftByte { s with bytecnt := j } tx).rxsr],
      by simp [Event.ofTransfer], rfl⟩

/-- The byte loop of any transfer. -/
theorem State.transferBytes_frame (s : State) (t : Transfer) : TransferFrame s (s.transferBytes t) := by
  cases t with
  | write buf => exact State.writeBytes_frame s 0 buf
  | read tx n => exact State.readBytes_frame s tx 0 n

end Sys2Proof.Machine
end

