-- ==== Sys2Proof/Laws/Issued.lean ====
section
/-! SUPPORT. What an issued transfer, a bracket, a table and the steps of bring-up change, in EVERY state: one lemma per
shared operation, to be cited instead of unfolding it. -/

namespace Sys2Proof.Machine

/-! ### The receive buffer -/

theorem State.bitTime_rxbuf (s : State) (i : Nat) : (s.bitTime i).rxbuf = s.rxbuf := by
  obtain ⟨rx, env, ev, hev, he⟩ := s.bitTime_frame i
  rw [he]

theorem State.shiftBits_rxbuf (s : State) (n : Nat) : (s.shiftBits n).rxbuf = s.rxbuf := by
  induction n generalizing s with
  | zero => rfl
  | succ n ih => rw [State.shiftBits, ih, State.bitTime_rxbuf]

theorem State.shiftByte_rxbuf (s : State) (b : Byte) : (s.shiftByte b).rxbuf = s.rxbuf :=
  State.shiftBits_rxbuf _ 8

theorem State.writeBytes_rxbuf (s : State) (j : Nat) (buf : List Byte) : (s.writeBytes j buf).rxbuf = s.rxbuf := by
  induction buf generalizing s j with
  | nil => rfl
  | cons b rest ih => rw [State.writeBytes, ih, State.shiftByte_rxbuf]

/-- `READ` keeps the canonical form of the receive buffer. -/
theorem State.readBytes_wf (s : State) (tx : Byte) (j n : Nat) (h : Memory.wf s.rxbuf = true) :
    Memory.wf (s.readBytes tx j n).rxbuf = true := by
  induction n generalizing s j with
  | zero => exact h
  | succ n ih =>
    rw [State.readBytes]
    apply ih
    rw [State.readByte]
    simp only [State.storeRx, State.emit]
    apply Memory.wf_write
    rw [State.shiftByte_rxbuf]
    exact h

theorem State.transferBytes_wf (s : State) (t : Transfer) (h : Memory.wf s.rxbuf = true) :
    Memory.wf (s.transferBytes t).rxbuf = true := by
  cases t with
  | write buf => rw [State.transferBytes, State.writeBytes_rxbuf]; exact h
  | read a b => exact State.readBytes_wf _ _ _ _ h

theorem State.transfer_write_rxbuf (s : State) (buf : List Byte) : (s.transfer (.write buf)).rxbuf = s.rxbuf := by
  unfold State.transfer
  split
  · unfold State.blockingTransfer State.startTransfer State.completeTransfer State.endTransfer State.invokeCallback
    split <;> exact State.writeBytes_rxbuf _ _ _
  · exact State.writeBytes_rxbuf _ _ _

/-! ### Transfers as they are issued -/

/-- All that a transfer may change, with and without ASYNC (R130, R131, R202, R206). -/
structure IssuedFrame (s t : State) : Prop where
  same : ∃ tx rx bc n buf env rxbuf ev cb ctx ci busy,
    (∀ e ∈ ev, Event.ofTransfer e = true ∨ (∃ c, e = .callback c)) ∧
    t = { s with
      txsr := tx, rxsr := rx, bitcnt := bc, bytecnt := n, pins := s.pins.written buf, env := env, rxbuf := rxbuf,
      trace := s.trace ++ ev, cb := cb, ctx := ctx, ctxIdx := ci, busy := busy }
  idle : s.busy = false → t.busy = false
  noAsync : s.cfg.hasAsync = false → t.busy = s.busy ∧ t.cb = s.cb ∧ t.ctx = s.ctx ∧ t.ctxIdx = s.ctxIdx
  wf : Memory.wf s.rxbuf = true → Memory.wf t.rxbuf = true

theorem State.transferBytes_issued (s : State) (t : Transfer) : IssuedFrame s (s.transferBytes t) := by
  obtain ⟨tx, rx, bc, n, buf, env, rxbuf, ev, hev, he⟩ := s.transferBytes_frame t
  refine ⟨⟨tx, rx, bc, n, buf, env, rxbuf, ev, s.cb, s.ctx, s.ctxIdx, s.busy, fun e h => .inl (hev e h), he⟩, ?_, ?_,
    State.transferBytes_wf s t⟩
  · rw [he]; exact id
  · rw [he]; simp

theorem State.startTransfer_issued (s : State) (t : Transfer) (cb : Option Callback) (ctx : Context)
    (h : s.cfg.hasAsync = true) : IssuedFrame s (s.startTransfer t cb ctx) := by
  obtain ⟨tx, rx, bc, n, buf, env, rxbuf, ev, hev, he⟩ := (s.beginTransfer cb ctx).transferBytes_frame t
  have hw := State.transferBytes_wf (s.beginTransfer cb ctx) t
  unfold State.startTransfer
  refine ⟨?_, ?_, by simp [h], ?_⟩
  · rw [he]
    cases cb with
    | none =>
      exact ⟨tx, rx, bc, n, buf, env, rxbuf, ev, none, ctx, s.ctxIdx, false, fun e h => .inl (hev e h), rfl⟩
    | some c =>
      refine ⟨tx, rx, bc, n, buf, env, rxbuf, ev ++ [.callback ctx], some c, ctx, s.ctxIdx, false, ?_, ?_⟩
      · intro e h
        rcases List.mem_append.1 h with h | h
        · exact .inl (hev e h)
        · exact .inr ⟨ctx, by simpa using h⟩
      · simp [State.completeTransfer, State.invokeCallback, State.beginTransfer, State.emit, State.endTransfer]
  · intro _; simp [State.completeTransfer]
  · intro h
    rw [← hw h]
    simp only [State.completeTransfer, State.endTransfer, State.invokeCallback]
    split <;> rfl

theorem State.blockingTransfer_issued (s : State) (t : Transfer) (h : s.cfg.hasAsync = true) :
    IssuedFrame s (s.blockingTransfer t) := by
  obtain ⟨⟨tx, rx, bc, n, buf, env, rxbuf, ev, cb, ctx, ci, busy, h1, h2⟩, h3, h4, h5⟩ :=
    State.startTransfer_issued { s with ctxIdx := s.ctxIdx + 1 } t none (Config.freeContext s.ctxIdx) h
  unfold State.blockingTransfer
  refine ⟨⟨tx, rx, bc, n, buf, env, rxbuf, ev, cb, ctx, ci, busy, h1, ?_⟩, h3, by simp [h], h5⟩
  rw [h2]

/-- Any `WRITE` or `READ`, wherever it is run. -/
theorem State.transfer_issued (s : State) (t : Transfer) : IssuedFrame s (s.transfer t) := by
  unfold State.transfer
  split
  · exact State.blockingTransfer_issued s t ‹_›
  · exact State.transferBytes_issued s t

/-! ### Brackets -/

/-- The events of a bracket on line `k` (R161). -/
def Event.ofBracket (k : Nat) (e : Event) : Prop :=
  Event.ofTransfer e = true ∨ e = .dirOut .sck ∨ e = .dirOut .mosi ∨ e = .dirIn .sck ∨ e = .dirIn .mosi ∨
    (∃ v, e = .set (.cs k) v) ∨ (∃ c, e = .callback c)

/-- The lines after a bracket on line `k`: clock and data-out released, the chip-select at its level `off`. -/
def Pins.released (p : Pins) (k : Nat) (off a b : Bool) : Pins :=
  { p with
    sck := { dir := .input, lat := .level a }
    mosi := { dir := .input, lat := .level b }
    cs := p.cs.set k { dir := (p.get (.cs k)).dir, lat := .level off } }

theorem Pins.released_twice (p : Pins) (k : Nat) (off a b c d : Bool) :
    (p.released k off a b).released k off c d = p.released k off c d := by
  by_cases hk : k < p.cs.length
  · simp [Pins.released, Pins.get, hk]
  · simp [Pins.released, Pins.get, List.set_eq_of_length_le (Nat.le_of_not_lt hk)]

theorem Pins.released_dc (p : Pins) (d : Pin) (k : Nat) (off a b : Bool) :
    Pins.released { p with dc := d } k off a b = { p.released k off a b with dc := d } := rfl

/-- All that a bracket may change (R161). -/
structure BracketFrame (s t : State) : Prop where
  same : ∃ tx rx bc n a b env ev cb ctx ci busy, (∀ e ∈ ev, Event.ofBracket s.cfg.csDisp e) ∧
    t = { s with
      txsr := tx, rxsr := rx, bitcnt := bc, bytecnt := n
      pins := s.pins.released s.cfg.csDisp (!s.cfg.csActive) a b, env := env, sel := none
      trace := s.trace ++ ev, cb := cb, ctx := ctx, ctxIdx := ci, busy := busy }
  idle : s.busy = false → t.busy = false
  noAsync : s.cfg.hasAsync = false → t.busy = s.busy ∧ t.cb = s.cb ∧ t.ctx = s.ctx ∧ t.ctxIdx = s.ctxIdx

theorem State.bracket_bframe (s : State) (bytes : List Byte) : BracketFrame s (s.bracket bytes) := by
  unfold State.bracket
  rw [State.csAssert_eq]
  simp only []
  generalize hu : ({ s with pins := _, sel := _, trace := _ } : State) = u
  obtain ⟨⟨tx, rx, bc, n, buf, env, rxbuf, ev, cb, ctx, ci, busy, h1, h2⟩, h3, h4, -⟩ :=
    State.transfer_issued u (.write bytes)
  have hx := State.transfer_write_rxbuf u bytes
  have hcs := Pins.cs_set_twice s.pins.cs s.cfg.csDisp s.cfg.csActive (!s.cfg.csActive)
  subst hu
  rw [State.csRelease_eq]
  refine ⟨⟨tx, rx, bc, n, match buf.getLast? with | none => false | some _ => true,
    match buf.getLast? with | none => true | some b => bitOf b 0, env,
    assertEvents s.cfg s.cfg.csDisp ++ ev ++ releaseEvents s.cfg s.cfg.csDisp, cb, ctx, ci, busy, ?_, ?_⟩, h3, h4⟩
  · intro e he
    simp only [List.mem_append, assertEvents, releaseEvents] at he
    rcases he with (he | he) | he
    · simp at he
      rcases he with rfl | rfl | rfl | rfl | rfl | rfl <;> simp [Event.ofBracket, Event.ofTransfer]
    · rcases h1 e he with h | h
      · exact .inl h
      · exact .inr (.inr (.inr (.inr (.inr (.inr h)))))
    · simp at he
      rcases he with rfl | rfl | rfl <;> simp [Event.ofBracket]
  · rw [h2] at hx
    simp only at hx
    subst hx
    rw [h2]
    simp only [State.pin, Pins.get] at hcs ⊢
    cases hb : buf.getLast? with
    | none => simp only [Pins.written, Pins.released, Pins.get, hb, hcs, List.append_assoc]
    | some b => simp only [Pins.written, Pins.released, Pins.get, hb, Pins.shifted, hcs, List.append_assoc]

/-! ### Tables -/

/-- All that a table of brackets may change (R164): either nothing on the lines, or they are as after a bracket. -/
structure TableFrame (s t : State) : Prop where
  same : ∃ tx rx bc n tp pins sel env ev cb ctx ci busy, (∀ e ∈ ev, Event.ofBracket s.cfg.csDisp e) ∧
    t = { s with
      txsr := tx, rxsr := rx, bitcnt := bc, bytecnt := n, tp := tp, pins := pins, env := env, sel := sel
      trace := s.trace ++ ev, cb := cb, ctx := ctx, ctxIdx := ci, busy := busy } ∧
    ((pins = s.pins ∧ sel = s.sel) ∨ (∃ a b, pins = s.pins.released s.cfg.csDisp (!s.cfg.csActive) a b ∧ sel = none))
  idle : s.busy = false → t.busy = false
  noAsync : s.cfg.hasAsync = false → t.busy = s.busy ∧ t.cb = s.cb ∧ t.ctx = s.ctx ∧ t.ctxIdx = s.ctxIdx

theorem TableFrame.setTp (s : State) (n : Nat) : TableFrame s { s with tp := n } :=
  ⟨⟨s.txsr, s.rxsr, s.bitcnt, s.bytecnt, n, s.pins, s.sel, s.env, [], s.cb, s.ctx, s.ctxIdx, s.busy, by simp, by simp,
    .inl ⟨rfl, rfl⟩⟩, id, by simp⟩

theorem TableFrame.refl (s : State) : TableFrame s s := TableFrame.setTp s s.tp

theorem TableFrame.trans {s t u : State} (a : TableFrame s t) (b : TableFrame t u) : TableFrame s u := by
  obtain ⟨⟨tx, rx, bc, n, tp, pins, sel, env, ev, cb, ctx, ci, busy, h1, rfl, h2⟩, h3, h4⟩ := a
  obtain ⟨⟨tx', rx', bc', n', tp', pins', sel', env', ev', cb', ctx', ci', busy', h1', rfl, h2'⟩, h3', h4'⟩ := b
  refine ⟨⟨tx', rx', bc', n', tp', pins', sel', env', ev ++ ev', cb', ctx', ci', busy', ?_, by simp, ?_⟩,
    fun h => h3' (h3 h), ?_⟩
  · intro e he
    rcases List.mem_append.1 he with h | h
    · exact h1 e h
    · exact h1' e h
  · simp only at h2'
    rcases h2 with ⟨rfl, rfl⟩ | ⟨x, y, rfl, rfl⟩
    · exact h2'
    · rcases h2' with ⟨rfl, rfl⟩ | ⟨x', y', rfl, rfl⟩
      · exact .inr ⟨x, y, rfl, rfl⟩
      · exact .inr ⟨x', y', Pins.released_twice .., rfl⟩
  · intro h
    obtain ⟨p1, p2, p3, p4⟩ := h4 h
    obtain ⟨q1, q2, q3, q4⟩ := h4' h
    exact ⟨q1.trans p1, q2.trans p2, q3.trans p3, q4.trans p4⟩

theorem BracketFrame.tframe {s t : State} (f : BracketFrame s t) : TableFrame s t := by
  obtain ⟨⟨tx, rx, bc, n, a, b, env, ev, cb, ctx, ci, busy, h1, h2⟩, h3, h4⟩ := f
  exact ⟨⟨tx, rx, bc, n, s.tp, _, _, env, ev, cb, ctx, ci, busy, h1, h2, .inr ⟨a, b, rfl, rfl⟩⟩, h3, h4⟩

theorem State.regwr_tframe (s : State) (reg : Byte) (vals : List Byte) : TableFrame s (s.regwr reg vals) :=
  (State.bracket_bframe s _).tframe.trans (.setTp _ _)

theorem State.regwr_tp (s : State) (reg : Byte) (vals : List Byte) :
    (s.regwr reg vals).tp = s.tp + 1 + (vals.length + 1) := by
  obtain ⟨⟨tx, rx, bc, n, a, b, env, ev, cb, ctx, ci, busy, h1, h2⟩, h3, h4⟩ := State.bracket_bframe s (reg :: vals)
  unfold State.regwr
  simp only []
  rw [h2]

/-- The interpreter reaches the sentinel behind legal records, in every state. -/
theorem State.runTable_total (records : List (List Byte)) (hr : ∀ wire ∈ records, legalRecord wire) (s : State)
    (pre tail : List Byte) (fuel : Nat) (hf : records.length < fuel) (htp : s.tp = pre.length) :
    ∃ t, s.runTable (pre ++ (records.flatMap recordBytes ++ 0 :: tail)) fuel = some t ∧ TableFrame s t := by
  induction records generalizing s pre fuel with
  | nil =>
    obtain ⟨f, rfl⟩ : ∃ f, fuel = f + 1 := ⟨fuel - 1, by simp at hf; omega⟩
    refine ⟨s, ?_, .refl s⟩
    rw [List.flatMap_nil, List.nil_append, State.runTable, htp, fetchRecord_sentinel]
    rfl
  | cons wire rest ih =>
    obtain ⟨f, rfl⟩ : ∃ f, fuel = f + 1 := ⟨fuel - 1, by simp at hf; omega⟩
    obtain ⟨h1, h2⟩ := hr wire (by simp)
    obtain ⟨reg, vals, rfl⟩ : ∃ reg vals, wire = reg :: vals := by
      cases wire with
      | nil => simp at h1
      | cons reg vals => exact ⟨reg, vals, rfl⟩
    have hfetch := fetchRecord_record pre (rest.flatMap recordBytes ++ 0 :: tail) reg vals
      (by rw [List.length_cons] at h2; omega)
    rw [List.flatMap_cons, List.append_assoc, State.runTable, htp, hfetch]
    simp only []
    rw [← List.append_assoc]
    obtain ⟨t, ht, hfr⟩ := ih (fun w hw => hr w (by simp [hw])) (s.regwr reg vals) (pre ++ recordBytes (reg :: vals)) f
      (by simpa using hf) (by rw [State.regwr_tp, htp]; simp [recordBytes]; omega)
    exact ⟨t, ht, (State.regwr_tframe s reg vals).trans hfr⟩

/-! ### Bring-up -/

/-- Bring-up steps 1 to 6 in closed form (R170). -/
theorem State.dispSteps_eq (s : State) :
    s.dispStep1.dispStep2.dispStep3.dispStep4.dispStep5.dispStep6 =
      { s with
        pins := { s.pins with
          sck := { s.pins.sck with dir := .input }
          mosi := { s.pins.mosi with dir := .input }
          miso := if s.cfg.hasMiso then { s.pins.miso with dir := .input } else s.pins.miso
          cs := s.pins.cs.set s.cfg.csDisp { dir := .output, lat := .level (!s.cfg.csActive) }
          dc := { dir := .output, lat := .level s.cfg.dcCmd }
          res := { dir := .output, lat := .level (!s.cfg.resActive) }
          pwrHv := { dir := .output, lat := .level (!s.cfg.hvOn) }
          pwrGnd := if s.cfg.hasPwrGnd then { dir := .output, lat := .level s.cfg.gndOn } else s.pins.pwrGnd }
        busReady := true
        csReady := s.csReady.set s.cfg.csDisp true
        session := { s.session with rail := .gndOnly, resetLine := .released, dcMode := .cmd }
        trace := s.trace ++ bringUpEvents s.cfg } := by
  by_cases hm : s.cfg.hasMiso = true <;> by_cases hg : s.cfg.hasPwrGnd = true <;>
  simp [State.dispStep1, State.dispStep2, State.dispStep3, State.dispStep4, State.dispStep5, State.dispStep6, hm, hg,
    State.busInit, State.csInit, State.pinInput, State.pinOutput, State.pinSet, State.emit, Pins.get, Pins.put,
    State.setBusReady, State.setCsReady, State.delay, bringUpEvents] <;>
  (by_cases hk : s.cfg.csDisp < s.pins.cs.length
   · simp [hk]
   · simp [List.set_eq_of_length_le (Nat.le_of_not_lt hk)])

end Sys2Proof.Machine
end

