-- ==== Sys2Proof/Laws/Exec.lean ====
section
/-! SUPPORT. Every instruction as its checks and its body, and what passing the checks says of the state. -/

namespace Sys2Proof.Machine

/-- What an instruction does when its checks pass; none is a fetch outside a table. -/
def bodyOf (i : Instr) (s : State) : Option State :=
  match i with
  | .busInit => some s.busInit
  | .csInit k => some (s.csInit k)
  | .csAssert k => some (s.csAssert k)
  | .csRelease k => some (s.csRelease k)
  | .write buf => some (s.transfer (.write buf))
  | .read txByte n => some (s.transfer (.read txByte n))
  | .execTable table => s.execTable table
  | .dispInit => s.dispInit
  | .send x y pix => some (s.send x y pix)
  | .xferStart t cb ctx => some (s.startTransfer t cb ctx)
  | .xferWait => some s
  | .xferBlocking t => some (s.blockingTransfer t)
  | .invalid _ => some s
  | .regwr reg vals => some (s.regwr reg vals)
  | .endMark => some s.endMark
  | .cmd reg vals => some (s.bracket (reg :: vals))
  | .colAddr first last => some (s.colAddr first last)
  | .rowAddr first last => some (s.rowAddr first last)
  | .pixData pix => some (s.pixData pix)
  | .byte b => some (s.shiftByte b)

theorem operate_as_table (v : Verdict) (body : State → State) (s : State) :
    operate v body s = operateTable v (fun s => some (body s)) s := by
  unfold operate operateTable
  split
  · rfl
  · cases v <;> rfl

/-- `exec` is the checks of `verdictOf` and then the body. -/
theorem exec_eq (i : Instr) (s : State) : exec i s = operateTable (verdictOf i s) (bodyOf i) s := by
  cases i <;> first | exact operate_as_table _ _ _ | rfl

theorem firstFailing_go_iff (l : List (Bool × Cause)) : firstFailing l = .go ↔ ∀ p ∈ l, p.1 = false := by
  induction l with
  | nil => simp
  | cons p l ih => obtain ⟨b, c⟩ := p; cases b <;> simp [ih]

theorem Verdict.afterHold_go {h : Bool} {v : Verdict} (e : Verdict.afterHold h v = .go) : v = .go ∧ h = false := by
  cases h <;> simp_all [Verdict.afterHold]

theorem Verdict.beforeHold_go {h : Bool} {v : Verdict} (e : Verdict.beforeHold v h = .go) : v = .go ∧ h = false := by
  cases h <;> cases v <;> simp_all [Verdict.beforeHold]

theorem needsAsync_go {v : Verdict} {s : State} (e : needsAsync v s = .go) : v = .go ∧ s.cfg.hasAsync = true := by
  unfold needsAsync at e
  split at e <;> simp_all

theorem blockingVerdict_go {t : Transfer} {s : State} (e : blockingVerdict t s = .go) :
    s.busReady = true ∧ s.sel ≠ none ∧ s.inFlight = false := by
  obtain ⟨e, h⟩ := Verdict.afterHold_go e
  cases t <;> simp [transferVerdict, firstFailing_go_iff, -firstFailing_cons, State.busHeld] at e <;>
    exact ⟨e.1, by intro h; simp [h] at e, h⟩

theorem bracketVerdict_go {s : State} (e : bracketVerdict s = .go) :
    s.cfg.csDisp < s.cfg.nCs ∧ s.busReady = true ∧ s.isCsReady s.cfg.csDisp = true ∧ s.sel = none ∧
      s.inFlight = false := by
  obtain ⟨e, h⟩ := Verdict.beforeHold_go e
  rw [csAssertVerdict, firstFailing_go_iff] at e
  simp [State.busHeld, State.badCs] at e
  exact ⟨e.1, e.2.1.1, e.2.1.2, e.2.2, h⟩

end Sys2Proof.Machine
end

