-- ==== Sys2Proof/Laws/PerInstr.lean ====
section
/-! SUPPORT. Statements made for every instruction, one lemma per constructor. Family `FixedBits`: the bits that
spec/opcode_table.json fixes stand in the spelling of every well-formed instruction (30_encoding.md R92, R98 to R102). -/

namespace Sys2Proof.Laws

/-- The bits a row of spec/opcode_table.json fixes, in the spelling of an instruction: a host operation's code (R102); a
record's length byte, which is 0 for the sentinel alone (R92, R94); a command's register address at the front (R98, R99);
`DC` high for pixel bytes (R100); eight bits for a byte, the most significant first (R101). -/
def FixedBits.Statement (i : Instr) : Prop :=
  i.wf Config.default = true →
    match i with
    | .busInit => ∃ a, encode Config.default i = .hostOp 0x01 a
    | .csInit _ => ∃ a, encode Config.default i = .hostOp 0x02 a
    | .csAssert _ => ∃ a, encode Config.default i = .hostOp 0x03 a
    | .csRelease _ => ∃ a, encode Config.default i = .hostOp 0x04 a
    | .write _ => ∃ a, encode Config.default i = .hostOp 0x05 a
    | .read _ _ => ∃ a, encode Config.default i = .hostOp 0x06 a
    | .execTable _ => ∃ a, encode Config.default i = .hostOp 0x10 a
    | .dispInit => ∃ a, encode Config.default i = .hostOp 0x11 a
    | .send _ _ _ => ∃ a, encode Config.default i = .hostOp 0x12 a
    | .xferStart _ _ _ => ∃ a, encode Config.default i = .hostOp 0x20 a
    | .xferWait => ∃ a, encode Config.default i = .hostOp 0x21 a
    | .xferBlocking _ => ∃ a, encode Config.default i = .hostOp 0x22 a
    | .invalid code => (∃ a, encode Config.default i = .hostOp code a) ∧ assignedCode Config.default code = false
    | .regwr reg vals => ∃ len, encode Config.default i = .record (len :: reg :: vals) ∧ len ≠ 0 ∧ len.toNat = vals.length + 1
    | .endMark => encode Config.default i = .record [0x00]
    | .cmd reg vals => encode Config.default i = .wire false (reg :: vals)
    | .colAddr first last => encode Config.default i = .wire false [0x15, first, last]
    | .rowAddr first last => encode Config.default i = .wire false [0x75, first, last]
    | .pixData pix => encode Config.default i = .wire true pix
    | .byte b => ∃ bs, encode Config.default i = .bits bs ∧ bs.length = 8 ∧ bs.head? = some (bitOf b 7) ∧ bs.getLast? = some (bitOf b 0)

theorem FixedBits.busInit : FixedBits.Statement .busInit := fun _ => ⟨_, rfl⟩

theorem FixedBits.csInit (k : Nat) : FixedBits.Statement (.csInit k) := fun _ => ⟨_, rfl⟩

theorem FixedBits.csAssert (k : Nat) : FixedBits.Statement (.csAssert k) := fun _ => ⟨_, rfl⟩

theorem FixedBits.csRelease (k : Nat) : FixedBits.Statement (.csRelease k) := fun _ => ⟨_, rfl⟩

theorem FixedBits.write (buf : List Byte) : FixedBits.Statement (.write buf) := fun _ => ⟨_, rfl⟩

theorem FixedBits.read (txByte : Byte) (n : Nat) : FixedBits.Statement (.read txByte n) := fun _ => ⟨_, rfl⟩

theorem FixedBits.execTable (table : List Byte) : FixedBits.Statement (.execTable table) := fun _ => ⟨_, rfl⟩

theorem FixedBits.dispInit : FixedBits.Statement .dispInit := fun _ => ⟨_, rfl⟩

theorem FixedBits.send (x y : Byte) (pix : List Byte) : FixedBits.Statement (.send x y pix) := fun _ => ⟨_, rfl⟩

theorem FixedBits.xferStart (t : Transfer) (cb : Option Callback) (ctx : Context) :
    FixedBits.Statement (.xferStart t cb ctx) := fun _ => ⟨_, rfl⟩

theorem FixedBits.xferWait : FixedBits.Statement .xferWait := fun _ => ⟨_, rfl⟩

theorem FixedBits.xferBlocking (t : Transfer) : FixedBits.Statement (.xferBlocking t) := fun _ => ⟨_, rfl⟩

theorem FixedBits.invalid (code : Byte) : FixedBits.Statement (.invalid code) := by
  intro h
  exact ⟨⟨_, rfl⟩, by simpa [Instr.wf] using h⟩

theorem FixedBits.regwr (reg : Byte) (vals : List Byte) : FixedBits.Statement (.regwr reg vals) := by
  intro h
  have hl : vals.length ≤ 254 := by simpa [Instr.wf] using h
  have hn : (BitVec.ofNat 8 (vals.length + 1)).toNat = vals.length + 1 := by rw [BitVec.toNat_ofNat]; omega
  refine ⟨_, rfl, ?_, hn⟩
  intro h0
  rw [h0] at hn
  simp at hn

theorem FixedBits.endMark : FixedBits.Statement .endMark := fun _ => rfl

theorem FixedBits.cmd (reg : Byte) (vals : List Byte) : FixedBits.Statement (.cmd reg vals) := fun _ => rfl

theorem FixedBits.colAddr (first last : Byte) : FixedBits.Statement (.colAddr first last) := fun _ => rfl

theorem FixedBits.rowAddr (first last : Byte) : FixedBits.Statement (.rowAddr first last) := fun _ => rfl

theorem FixedBits.pixData (pix : List Byte) : FixedBits.Statement (.pixData pix) := fun _ => rfl

theorem FixedBits.byte (b : Byte) : FixedBits.Statement (.byte b) := fun _ => ⟨_, rfl, rfl, rfl, rfl⟩

end Sys2Proof.Laws
end

