-- ==== Sys2Proof/Tests/Slice0.lean ====
section
/-! SUPPORT. The model's own tests: ill-formed terms refused, words written out from the encodings, the worked vectors of
spec/95_test_vectors.md (each named in its docstring), and one witness for every statement that has hypotheses. -/

namespace Sys2Proof.Tests

open Sys2Proof Sys2Proof.Machine

/-! ### Small states -/

/-- The configuration of 95_test_vectors.md section 0. -/
def cfg0 : Config := { hasMiso := false, hasAsync := false }

/-- The same with a data-in line. -/
def cfgM : Config := { hasMiso := true, hasAsync := false }

/-- The same with ASYNC. -/
def cfgA : Config := { hasMiso := false, hasAsync := true }

/-- The same with two followers. -/
def cfg2 : Config := { nCs := 2, hasMiso := false, hasAsync := false }

/-- "Ready" of 95_test_vectors.md section 0: after `BUS_INIT` and `CS_INIT` of every line. -/
def ready (cfg : Config) : State :=
  { State.afterReset cfg with
    busReady := true
    csReady := List.replicate cfg.nCs true
    pins := { cs := List.replicate cfg.nCs { dir := .output, lat := .level true } } }

/-- A bracket open on line `k`: after vector T4. -/
def opened (cfg : Config) (k : Nat) : State :=
  { ready cfg with
    sel := some k
    pins :=
      { sck := { dir := .output, lat := .level false }
        mosi := { dir := .output, lat := .level true }
        cs := (List.replicate cfg.nCs { dir := .output, lat := .level true }).set k { dir := .output, lat := .level false } } }

/-- After `DISP_INIT`: the end state of program P4, its trace forgotten. -/
def lit (cfg : Config) : State :=
  { ready cfg with
    dispReady := true
    session := { rail := .full, resetLine := .released, dcMode := .cmd, win := none, phase := .on }
    pins :=
      { sck := { dir := .input, lat := .level true }
        mosi := { dir := .input, lat := .level true }
        dc := { dir := .output, lat := .level false }
        res := { dir := .output, lat := .level true }
        pwrGnd := { dir := .output, lat := .level true }
        pwrHv := { dir := .output, lat := .level true }
        cs := List.replicate cfg.nCs { dir := .output, lat := .level true } } }

/-- The environment that answers the bits of a byte, most significant first. -/
def echoing (b : Byte) : Env := { answers := byteBits b }

/-- The next state, if there is one. -/
def answered : Result → Option State
  | .next s => some s
  | .fault _ => none
  | .refused _ => none

/-- One view of the next state. -/
def view {α : Type} (f : State → α) (r : Result) : Option α := (answered r).map f

/-- The levels written to the data-out line. -/
def mosiLevels (s : State) : List Bool :=
  s.trace.filterMap (fun e => match e with
    | .set .mosi v => some v
    | _ => none)

/-- The events that are neither on the clock or data-out line nor a half period. -/
def coarse (s : State) : List Event :=
  s.trace.filter (fun e => !e.onLine .sck && !e.onLine .mosi && e != .delay 1)

/-- `FAULT` and `FCAUSE`. -/
def fault (s : State) : Bool × Nat := (s.fault, s.fcause)

/-! ### Ill-formed terms are refused -/

/-- R92: a length byte counts at most 255 bytes, register address and values. -/
theorem test_wf_regwr :
    (Instr.regwr 0x07 (List.replicate 254 0x07)).wf cfgA = true ∧
      (Instr.regwr 0x07 (List.replicate 255 0x07)).wf cfgA = false := by decide +kernel

/-- R104: `INVALID` carries no assigned code. -/
theorem test_wf_invalid :
    (Instr.invalid 0x07).wf cfgA = true ∧ (Instr.invalid 0x05).wf cfgA = false ∧
      (Instr.invalid 0x21).wf cfgA = false ∧ (Instr.invalid 0x21).wf cfg0 = true := by decide

/-- R102: the `XFER_*` operations exist with ASYNC only. -/
theorem test_wf_xfer :
    (Instr.xferStart (.write []) none 0).wf cfg0 = false ∧ Instr.xferWait.wf cfg0 = false ∧
      (Instr.xferBlocking (.write [])).wf cfg0 = false ∧ Instr.xferWait.wf cfgA = true := by decide

/-- R99: three bytes that begin 0x15 or 0x75 are window commands and no other. -/
theorem test_wf_cmd :
    (Instr.cmd 0x15 [10, 95]).wf cfg0 = false ∧ (Instr.cmd 0x75 [63, 63]).wf cfg0 = false ∧
      (Instr.cmd 0x15 [10]).wf cfg0 = true ∧ (Instr.cmd 0xA0 [10, 95]).wf cfg0 = true := by decide

/-- R100, R99: commands and pixel bytes differ by the level of `DC`, the window commands by their register. -/
theorem test_wf_wire :
    (Instr.cmd 0xAF []).wf { cfg0 with dcCmd := true } = false ∧
      (Instr.colAddr 0 95).wf { cfg0 with dcCmd := true } = false ∧
      (Instr.rowAddr 0 63).wf { cfg0 with dcCmd := true } = false ∧
      (Instr.rowAddr 0 63).wf { cfg0 with rowAddrReg := 0x15 } = false ∧ (Instr.rowAddr 0 63).wf cfg0 = true := by decide

/-- R8: the documented values. -/
theorem test_documented_values :
    Config.default.colAddrReg = 0x15 ∧ Config.default.rowAddrReg = 0x75 ∧ Config.default.colEnd = 95 ∧
      Config.default.rowEnd = 63 ∧ Config.default.csActive = false ∧ Config.default.dcData = true ∧
      Config.default.dcCmd = false ∧ Config.default.tHalf = 1 ∧ Config.default.tCsSetup = 5 := by decide

/-- R264: each condition on a configuration. -/
theorem test_wf_config :
    cfg0.wf = true ∧ Config.wf { cfg0 with nCs := 0 } = false ∧ Config.wf { cfg0 with csDisp := 1 } = false ∧
      Config.wf { cfg0 with configTable := [0x02, 0xA0] } = false ∧ Config.wf { cfg0 with disponCmd := [] } = false := by
  decide

/-! ### Words written out from the encodings -/

/-- R102: the codes of TRANSPORT. -/
theorem test_decode_transport :
    decodeTableWord 8 0b00000001 = some .busInit ∧ decodeTableWord 8 0b00000010 = some (.csInit 0) ∧
      decodeTableWord 8 0b00000011 = some (.csAssert 0) ∧ decodeTableWord 8 0b00000100 = some (.csRelease 0) ∧
      decodeTableWord 8 0b00000101 = some (.write []) ∧ decodeTableWord 8 0b00000110 = some (.read 0 0) := by decide

/-- R102: the codes of SEQUENCER. -/
theorem test_decode_sequencer :
    decodeTableWord 8 0b00010000 = some (.execTable []) ∧ decodeTableWord 8 0b00010001 = some .dispInit ∧
      decodeTableWord 8 0b00010010 = some (.send 0 0 []) := by decide

/-- R102: the codes of ASYNC. -/
theorem test_decode_async :
    decodeTableWord 8 0b00100000 = some (.xferStart (.write []) none 0) ∧ decodeTableWord 8 0b00100001 = some .xferWait ∧
      decodeTableWord 8 0b00100010 = some (.xferBlocking (.write [])) := by decide

/-- R104, vectors F15 and F16: a code of no operation, and an `XFER_*` code without ASYNC. -/
theorem test_decode_invalid :
    decodeTableWord 8 0b00000111 = some (.invalid 0x07) ∧
      decode cfg0 (.hostOp 0b00100000 {}) = .ok (.invalid 0b00100000) := by decide

/-- R92, R94: a record of one byte, a record of three, the sentinel; a record cut short (vector Q11), none at all. -/
theorem test_decode_records :
    decodeRecord [0b00000001, 0b10101110, 0b00000000] = .ok (.regwr 0b10101110 [], [0b00000000]) ∧
      decode cfg0 (.record [0b00000011, 0b00010101, 0b00001010, 0b01011111]) =
        .ok (.regwr 0b00010101 [0b00001010, 0b01011111]) ∧
      decode cfg0 (.record [0b00000000]) = .ok .endMark ∧
      decode cfg0 (.record [0b00000010, 0b00010001]) = .error .recordRunsPastEnd ∧
      decode cfg0 (.record []) = .error .noLengthByte := by decide

/-- R98 to R100: the address-window commands bit by bit, another command, pixel bytes. -/
theorem test_decode_wire :
    decodeTableWord 24 0b00010101_00001010_01011111 = some (.colAddr 10 95) ∧
      decodeTableWord 24 0b01110101_00111111_00111111 = some (.rowAddr 63 63) ∧
      decode cfg0 (.wire false [0b10101110]) = .ok (.cmd 0b10101110 []) ∧
      decode cfg0 (.wire true [0b00010101, 0b00000000, 0b00000001]) = .ok (.pixData [21, 0, 1]) ∧
      decode cfg0 (.wire false []) = .error .noRegisterAddress := by decide

/-- R101, R65: the first bit is the most significant. -/
theorem test_decode_bits :
    decode cfg0 (.bits [true, true, false, false, true, false, false, false]) = .ok (.byte 0b11001000) ∧
      decode cfg0 (.bits [true]) = .error .notEightBits := by decide

/-- R102, R107: encodings of vectors P1 and P5, and of the record of W1. -/
theorem test_encode :
    encode cfg0 (.send 0x0A 0x3F [0xFF, 0xFF]) = .hostOp 0x12 { x := 0x0A, y := 0x3F, pix := [0xFF, 0xFF] } ∧
      encode cfg0 (.regwr 0x15 [10, 95]) = .record [0x03, 0x15, 0x0A, 0x5F] ∧
      encode cfg0 (.byte 0xA5) = .bits [true, false, true, false, false, true, false, true] := by decide

/-- R102, R104: an assigned code and an unassigned one, each placed as the first operation after reset and run. -/
theorem test_fetch_word :
    view State.busReady (step (State.reset.withFetchWord 8 0x01)) = some true ∧
      view fault (step (State.reset.withFetchWord 8 0x07)) = some (true, 9) := by decide

/-! ### Operations, one step each -/

/-- Vector T1. -/
theorem test_busInit :
    view (fun s => (s.trace, s.busReady, s.pins.sck.lat)) (exec .busInit (State.afterReset cfgM)) =
      some ([.dirIn .sck, .dirIn .mosi, .dirIn .miso], true, .never) := by decide

/-- Vector F10. -/
theorem test_busInit_held : view fault (exec .busInit (opened cfg0 0)) = some (true, 3) := by decide

/-- Vector T3. -/
theorem test_csInit :
    view (fun s => (s.trace, s.csReady, s.pin (.cs 0))) (exec (.csInit 0) (State.afterReset cfg0)) =
      some ([.set (.cs 0) true, .dirOut (.cs 0)], [true], { dir := .output, lat := .level true }) := by decide

/-- Vectors F14 and F11. -/
theorem test_csInit_faults :
    view fault (exec (.csInit 1) (ready cfg0)) = some (true, 8) ∧
      view fault (exec (.csInit 1) (opened cfg2 0)) = some (true, 3) := by decide

/-- Vector T4. -/
theorem test_csAssert :
    view (fun s => (s.trace, s.pins, s.sel)) (exec (.csAssert 0) (ready cfg0)) =
      some ([.set .sck false, .set .mosi true, .dirOut .sck, .dirOut .mosi, .set (.cs 0) false, .delay 5],
        (opened cfg0 0).pins, some 0) := by decide

/-- Vectors F3, F5 and F6. -/
theorem test_csAssert_faults :
    view fault (exec (.csAssert 0) { State.afterReset cfg0 with busReady := true }) = some (true, 1) ∧
      view fault (exec (.csAssert 3) (State.afterReset cfg2)) = some (true, 8) ∧
      view fault (exec (.csAssert 1) (opened cfg2 0)) = some (true, 3) := by decide

/-- Vector T5. -/
theorem test_csRelease :
    view (fun s => (s.trace, s.pins.sck, s.pins.mosi, s.pin (.cs 0), s.sel)) (exec (.csRelease 0) (opened cfg0 0)) =
      some ([.set (.cs 0) true, .dirIn .sck, .dirIn .mosi], { dir := .input, lat := .level false },
        { dir := .input, lat := .level true }, { dir := .output, lat := .level true }, none) := by decide

/-- Vectors F8 and F9. -/
theorem test_csRelease_faults :
    view fault (exec (.csRelease 0) (ready cfg0)) = some (true, 4) ∧
      view fault (exec (.csRelease 1) (opened cfg2 0)) = some (true, 4) := by decide

/-- Vectors T7 and T8. -/
theorem test_write :
    view (fun s => (s.trace.length, s.trace.take 5, mosiLevels s, s.pins.mosi.lat)) (exec (.write [0x80]) (opened cfg0 0)) =
      some (40, [.set .sck false, .set .mosi true, .delay 1, .set .sck true, .delay 1],
        [true, false, false, false, false, false, false, false], .level false) ∧
      answered (exec (.write []) (opened cfg0 0)) = some (opened cfg0 0) := by decide

/-- Vectors F1 and F2. -/
theorem test_write_faults :
    view fault (exec (.write [0x55]) (State.afterReset cfg0)) = some (true, 1) ∧
      view fault (exec (.write [0x55]) (ready cfg0)) = some (true, 2) := by decide

/-- Vector T11: two bytes, filler 0x00. -/
theorem test_read :
    view (fun s => (s.rxbuf, s.pins.mosi.lat, s.trace.length, s.env.answers))
      (exec (.read 0x00 2) { opened cfgM 0 with env := { answers := byteBits 0x3C ++ byteBits 0xFF } }) =
      some ([(0, 0x3C), (1, 0xFF)], .level false, 98, []) := by decide +kernel

/-- Vectors F12 and F13. -/
theorem test_read_faults :
    view fault (exec (.read 0xFF 1) (opened cfg0 0)) = some (true, 5) ∧
      view fault (exec (.read 0xFF 1) (ready cfg0)) = some (true, 2) := by decide

/-- Vector Q2. -/
theorem test_execTable :
    view (fun s => (s.tp, s.trace.length, coarse s)) (exec (.execTable [0x02, 0x11, 0x22, 0x01, 0x33, 0x00]) (ready cfg0)) =
      some (5, 138, [.set (.cs 0) false, .delay 5, .set (.cs 0) true, .set (.cs 0) false, .delay 5, .set (.cs 0) true]) := by
  decide +kernel

/-- Vectors Q9 and Q12. -/
theorem test_execTable_faults :
    answered (exec (.execTable [0x01, 0x00]) (ready cfg0)) = some { ready cfg0 with fault := true, fcause := 6 } ∧
      view fault (exec (.execTable [0x02, 0x11]) (State.afterReset cfg0)) = some (true, 1) := by decide

/-- Vector I4: other polarities. -/
theorem test_dispInit :
    view (fun s => (s.trace.length, coarse s, s.session.rail, s.tp))
      (exec .dispInit (State.afterReset { cfg0 with
        hasPwrGnd := false, resActive := true, hvOn := false, configTable := [0x00], disponCmd := [0xAF] })) =
      some (67, [.set (.cs 0) true, .dirOut (.cs 0), .set .dc false, .dirOut .dc, .set .res false, .dirOut .res,
        .set .pwrHv true, .dirOut .pwrHv, .delay 20, .set .res true, .delay 3, .set .res false, .delay 3,
        .set .pwrHv false, .delay 100000, .set (.cs 0) false, .delay 5, .set (.cs 0) true, .delay 100000], .full, 0) := by
  decide +kernel

/-- Vectors I2 and I3. -/
theorem test_dispInit_faults :
    answered (exec .dispInit (State.afterReset { cfg0 with configTable := [0x02, 0xA0] })) =
      some { State.afterReset { cfg0 with configTable := [0x02, 0xA0] } with fault := true, fcause := 6 } ∧
      view fault (exec .dispInit (opened cfg0 0)) = some (true, 3) := by decide

/-- Vector S1. -/
theorem test_send :
    view (fun s => (s.trace.length, s.session.win, s.pins.dc.lat, s.sel)) (exec (.send 10 63 [0xFF, 0xFF]) (lit cfg0)) =
      some (349, some ⟨10, 95, 63, 63⟩, .level false, none) ∧
    view coarse (exec (.send 10 63 [0xFF, 0xFF]) (lit cfg0)) =
      some [.set (.cs 0) false, .delay 5, .set (.cs 0) true, .set (.cs 0) false, .delay 5, .set (.cs 0) true, .set .dc true,
        .set (.cs 0) false, .delay 5, .set (.cs 0) true, .set .dc false] := by decide +kernel

/-- Vectors S4 and S5. -/
theorem test_send_faults :
    view fault (exec (.send 0 0 [0]) (ready cfg0)) = some (true, 7) ∧
      view fault (exec (.send 0 0 []) { opened cfg0 0 with dispReady := true }) = some (true, 3) := by decide

/-- Vector X7: the store comes before the callback. -/
theorem test_xferStart :
    view (fun s => (s.trace.drop 48, s.rxbuf, s.busy))
      (exec (.xferStart (.read 0xFF 1) (some 2) 9) { opened Config.default 0 with env := echoing 0xC3 }) =
      some ([.store 0 0xC3, .callback 9], [(0, 0xC3)], false) ∧
    view (fun s => (s.cb, s.ctx))
      (exec (.xferStart (.read 0xFF 1) (some 2) 9) { opened Config.default 0 with env := echoing 0xC3 }) =
      some (some 2, 9) := by decide +kernel

/-- Vector X6: a start refused by its checks leaves `BUSY`, `CB` and `CTX`. -/
theorem test_xferStart_fault :
    answered (exec (.xferStart (.write [0x00]) (some 2) 7) { ready cfgA with cb := some 5, ctx := 1 }) =
      some { ready cfgA with cb := some 5, ctx := 1, fault := true, fcause := 2 } := by decide

/-- Vector X4. -/
theorem test_xferWait : answered (exec .xferWait (ready cfgA)) = some (ready cfgA) := by decide

/-- R204: a wait while a transfer is in flight stays in the program. -/
theorem test_xferWait_holds :
    answered (step { opened cfgA 0 with busy := true, program := [.op (.hostOp 0x21 {})] }) =
      some { opened cfgA 0 with busy := true, program := [.op (.hostOp 0x21 {})] } := by decide

/-- Vector X5. -/
theorem test_xferBlocking :
    view (fun s => (mosiLevels s, s.trace.length, s.busy, s.cb)) (exec (.xferBlocking (.write [0xFF])) (opened cfgA 0)) =
      some (List.replicate 8 true, 40, false, none) := by decide

/-- Vector F15. -/
theorem test_invalid :
    answered (exec (.invalid 0x07) (ready cfg0)) = some { ready cfg0 with fault := true, fcause := 9 } := by decide

/-- Vector W1. -/
theorem test_regwr :
    view (fun s => (s.tp, coarse s, mosiLevels s)) (exec (.regwr 0x15 [0x0A, 0x5F]) { ready cfg0 with tp := 7 }) =
      some (11, [.set (.cs 0) false, .delay 5, .set (.cs 0) true],
        true :: [0x15, 0x0A, 0x5F].flatMap byteBits) := by decide +kernel

/-- Vectors Q1 and Q5: the sentinel ends a table where it stands. -/
theorem test_endMark :
    answered (exec .endMark (ready cfg0)) = some (ready cfg0) ∧
      answered (exec (.execTable [0x00, 0x05, 0x05]) { ready cfg0 with tp := 9 }) = some (ready cfg0) := by decide

/-- R98, first byte first: the display-on command of program P4. -/
theorem test_cmd :
    view (fun s => (s.trace.length, mosiLevels s)) (exec (.cmd 0xAF []) (ready cfg0)) =
      some (49, [true, true, false, true, false, true, true, true, true]) := by decide

/-- Vector W5, first command: the bits are those vector S1 writes out. -/
theorem test_colAddr :
    view mosiLevels (exec (.colAddr 10 95) (ready cfg0)) =
      some (true :: [false, false, false, true, false, true, false, true, false, false, false, false, true, false, true,
        false, false, true, false, true, true, true, true, true]) := by decide +kernel

/-- Vector W5, second command. -/
theorem test_rowAddr :
    view mosiLevels (exec (.rowAddr 63 63) (ready cfg0)) =
      some (true :: [false, true, true, true, false, true, false, true, false, false, true, true, true, true, true, true,
        false, false, true, true, true, true, true, true]) := by decide +kernel

/-- Vector S2: no pixel byte leaves an empty bracket. -/
theorem test_pixData :
    view State.trace (exec (.pixData []) (ready cfg0)) =
      some [.set .sck false, .set .mosi true, .dirOut .sck, .dirOut .mosi, .set (.cs 0) false, .delay 5,
        .set (.cs 0) true, .dirIn .sck, .dirIn .mosi] := by decide

/-- Vector W4: `RXSR` after the eight bit times, and the shape of one. -/
theorem test_byte :
    view (fun s => (s.rxsr, s.trace.take 6, s.trace.length)) (exec (.byte 0xFF) { opened cfgM 0 with env := echoing 0xA5 }) =
      some (0xA5, [.set .sck false, .set .mosi true, .delay 1, .get .miso true, .set .sck true, .delay 1], 48) := by decide

/-- Vector F17: nothing happens while a fault is recorded. -/
theorem test_sticky :
    answered (exec (.csAssert 0) { ready cfg0 with fault := true, fcause := 2 }) =
      some { ready cfg0 with fault := true, fcause := 2 } := by decide

/-- Vector F18: reset clears it. -/
theorem test_reset_event :
    answered (step { ready cfg0 with fault := true, fcause := 2, program := [.reset] }) = some (State.afterReset cfg0) := by
  decide

/-! ### The states meet the invariants -/

theorem shaped_ready : Shaped (ready cfg2) := ⟨rfl, rfl⟩

theorem shaped_opened : Shaped (opened cfg2 1) := ⟨rfl, rfl⟩

theorem shaped_ready0 : Shaped (ready cfg0) := ⟨rfl, rfl⟩

theorem shaped_reset (cfg : Config) : Shaped (State.afterReset cfg) := by
  constructor <;> simp [State.afterReset]

/-- Two lines, the bus free. -/
theorem busInv_ready : BusInv (ready cfg2) where
  shaped := shaped_ready
  released := fun _ => ⟨rfl, rfl⟩
  selected := fun _ h => by cases h
  low := fun k h => by match k with
    | 0 => cases h
    | 1 => cases h
    | _ + 2 => cases h
  idleHigh := fun k h _ => by match k with
    | 0 => rfl
    | 1 => rfl
    | _ + 2 => cases h
  csDriven := fun k h => by match k with
    | 0 => rfl
    | 1 => rfl
    | _ + 2 => cases h
  misoInput := rfl

/-- Two lines, a bracket open on the second. -/
theorem busInv_opened : BusInv (opened cfg2 1) where
  shaped := shaped_opened
  released := fun h => by cases h
  selected := fun k h => by
    cases h
    exact ⟨rfl, rfl, rfl, rfl, rfl⟩
  low := fun k h => by match k with
    | 0 => cases h
    | 1 => rfl
    | _ + 2 => cases h
  idleHigh := fun k h hs => by match k with
    | 0 => rfl
    | 1 => exact absurd rfl hs
    | _ + 2 => cases h
  csDriven := fun k h => by match k with
    | 0 => rfl
    | 1 => rfl
    | _ + 2 => cases h
  misoInput := rfl

/-- After bring-up. -/
theorem busInv_lit : BusInv (lit cfg2) where
  shaped := ⟨rfl, rfl⟩
  released := fun _ => ⟨rfl, rfl⟩
  selected := fun _ h => by cases h
  low := fun k h => by match k with
    | 0 => cases h
    | 1 => cases h
    | _ + 2 => cases h
  idleHigh := fun k h _ => by match k with
    | 0 => rfl
    | 1 => rfl
    | _ + 2 => cases h
  csDriven := fun k h => by match k with
    | 0 => rfl
    | 1 => rfl
    | _ + 2 => cases h
  misoInput := rfl

/-- The session after bring-up. -/
theorem sessionInv_lit : SessionInv (lit cfg2) where
  dcCmd := by decide
  dcData := by decide
  resetAsserted := by decide
  resetReleased := by decide
  railGnd := by decide
  railFull := by decide
  railNotOff := by decide
  ready := by decide
  on := by decide

/-- After bring-up, with a program to run. -/
theorem inv_lit (program : List Input) : Inv { lit cfg2 with program := program } where
  bus := ⟨⟨rfl, rfl⟩, busInv_lit.released, busInv_lit.selected, busInv_lit.low, busInv_lit.idleHigh,
    busInv_lit.csDriven, busInv_lit.misoInput⟩
  session :=
    ⟨sessionInv_lit.dcCmd, sessionInv_lit.dcData, sessionInv_lit.resetAsserted, sessionInv_lit.resetReleased,
      sessionInv_lit.railGnd, sessionInv_lit.railFull, sessionInv_lit.railNotOff, sessionInv_lit.ready, sessionInv_lit.on⟩
  idle := rfl
  memory := rfl

theorem transferReady_opened0 : TransferReady (opened cfg0 0) := ⟨rfl, rfl, nofun, rfl, (fun h => nomatch h)⟩

theorem transferReady_openedM : TransferReady (opened cfgM 0) := ⟨rfl, rfl, nofun, rfl, fun _ => rfl⟩

theorem transferReady_openedA : TransferReady (opened Config.default 0) := ⟨rfl, rfl, nofun, rfl, fun _ => rfl⟩

theorem bracketReady_ready : BracketReady (ready cfg0) :=
  ⟨rfl, by decide, rfl, rfl, rfl, rfl, (fun h => nomatch h)⟩

theorem bracketReady_lit : BracketReady (lit cfg2) :=
  ⟨rfl, by decide, rfl, rfl, rfl, rfl, (fun h => nomatch h)⟩

/-! ### Witnesses -/

theorem test_witness_ResetEventResult :
    (∃ (s : State) (rest : List Input), configAccepted s.cfg = true ∧ s.program = .reset :: rest ∧ s.sel = none) ∧
      (∃ (s : State) (rest : List Input), configAccepted s.cfg = true ∧ s.program = .reset :: rest ∧ s.sel ≠ none) :=
  ⟨⟨{ ready cfg0 with program := [.reset] }, [], rfl, rfl, rfl⟩,
    ⟨{ opened cfg0 0 with program := [.reset] }, [], rfl, rfl, nofun⟩⟩

theorem test_witness_BusInitResult :
    ((ready cfg0).fault = false ∧ (ready cfg0).sel = none) ∧ ((opened cfg0 0).fault = false ∧ (opened cfg0 0).sel ≠ none) :=
  ⟨⟨rfl, rfl⟩, rfl, nofun⟩

/-- The last line of two, the first index past it, a bus that is held. -/
theorem test_witness_CsInitResult :
    ((ready cfg2).fault = false ∧ Shaped (ready cfg2) ∧ 1 < (ready cfg2).cfg.nCs ∧ (ready cfg2).sel = none) ∧
      ((ready cfg2).cfg.nCs ≤ 2) ∧
      ((opened cfg2 1).fault = false ∧ Shaped (opened cfg2 1) ∧ 1 < (opened cfg2 1).cfg.nCs ∧ (opened cfg2 1).sel ≠ none) :=
  ⟨⟨rfl, shaped_ready, by decide, rfl⟩, by decide, rfl, shaped_opened, by decide, nofun⟩

theorem test_witness_CsAssertResult :
    ((ready cfg2).fault = false ∧ Shaped (ready cfg2) ∧ 1 < (ready cfg2).cfg.nCs ∧ (ready cfg2).busReady = true ∧
        (ready cfg2).isCsReady 1 = true ∧ (ready cfg2).sel = none) ∧
      ((ready cfg2).cfg.nCs ≤ 2) ∧
      (Shaped (State.afterReset cfg2) ∧ (State.afterReset cfg2).fault = false ∧
        (State.afterReset cfg2).busReady = false ∧ (State.afterReset cfg2).isCsReady 1 = false) ∧
      ((opened cfg2 1).fault = false ∧ Shaped (opened cfg2 1) ∧ (opened cfg2 1).busReady = true ∧
        (opened cfg2 1).isCsReady 0 = true ∧ (opened cfg2 1).sel ≠ none) :=
  ⟨⟨rfl, shaped_ready, by decide, rfl, rfl, rfl⟩, by decide, ⟨shaped_reset cfg2, rfl, rfl, rfl⟩,
    rfl, shaped_opened, rfl, rfl, nofun⟩

theorem test_witness_CsReleaseResult :
    ((opened cfg2 1).fault = false ∧ Shaped (opened cfg2 1) ∧ 1 < (opened cfg2 1).cfg.nCs ∧ (opened cfg2 1).sel = some 1) ∧
      ((opened cfg2 1).cfg.nCs ≤ 2) ∧ (0 < (opened cfg2 1).cfg.nCs ∧ (opened cfg2 1).sel ≠ some 0) ∧
      (Shaped (ready cfg2) ∧ (ready cfg2).fault = false ∧ (ready cfg2).sel ≠ some 1) :=
  ⟨⟨rfl, shaped_opened, by decide, rfl⟩, by decide, by decide, shaped_ready, rfl, nofun⟩

theorem test_witness_EmptyBracketReleasesTheBus :
    (ready cfg2).fault = false ∧ BusInv (ready cfg2) ∧ 1 < (ready cfg2).cfg.nCs ∧ (ready cfg2).busReady = true ∧
      (ready cfg2).isCsReady 1 = true ∧ (ready cfg2).sel = none :=
  ⟨rfl, busInv_ready, by decide, rfl, rfl, rfl⟩

theorem test_witness_BusIsHandedOver :
    (opened cfg2 1).fault = false ∧ BusInv (opened cfg2 1) ∧ 0 < (opened cfg2 1).cfg.nCs ∧
      (opened cfg2 1).isCsReady 0 = true ∧ 0 ≠ 1 ∧ (opened cfg2 1).sel = some 1 :=
  ⟨rfl, busInv_opened, by decide, rfl, by decide, rfl⟩

/-- With a data-in line and without one. -/
theorem test_witness_ShiftByteResult : MisoReleased (opened cfgM 0) ∧ MisoReleased (opened cfg0 0) :=
  ⟨fun _ => rfl, (fun h => nomatch h)⟩

theorem test_witness_ByteResult :
    (opened cfgM 0).fault = false ∧ (opened cfgM 0).busReady = true ∧ (opened cfgM 0).sel ≠ none ∧
      MisoReleased (opened cfgM 0) :=
  ⟨rfl, rfl, nofun, fun _ => rfl⟩

/-- Without ASYNC and with it; before `BUS_INIT`; without a bracket. -/
theorem test_witness_WriteResult :
    TransferReady (opened cfg0 0) ∧ TransferReady (opened Config.default 0) ∧
      ((State.afterReset cfg0).fault = false ∧ (State.afterReset cfg0).inFlight = false ∧
        (State.afterReset cfg0).busReady = false) ∧
      ((ready cfg0).fault = false ∧ (ready cfg0).inFlight = false ∧ (ready cfg0).busReady = true ∧
        (ready cfg0).sel = none) :=
  ⟨transferReady_opened0, transferReady_openedA, by decide, by decide⟩

/-- As above, and a bracket with no data-in line. -/
theorem test_witness_ReadResult :
    (TransferReady (opened cfgM 0) ∧ (opened cfgM 0).cfg.hasMiso = true) ∧
      ((State.afterReset cfg0).fault = false ∧ (State.afterReset cfg0).inFlight = false ∧
        (State.afterReset cfg0).busReady = false) ∧
      ((ready cfg0).fault = false ∧ (ready cfg0).inFlight = false ∧ (ready cfg0).busReady = true ∧
        (ready cfg0).sel = none) ∧
      ((opened cfg0 0).fault = false ∧ (opened cfg0 0).inFlight = false ∧ (opened cfg0 0).busReady = true ∧
        (opened cfg0 0).sel ≠ none ∧ (opened cfg0 0).cfg.hasMiso = false) :=
  ⟨⟨transferReady_openedM, rfl⟩, by decide, by decide, by decide⟩

/-- The byte of example W4. -/
theorem test_witness_ReadReconstructsTheByte :
    ∃ s : State, TransferReady s ∧ s.cfg.hasMiso = true ∧ s.env.take 8 = byteBits 0xA5 :=
  ⟨{ opened cfgM 0 with env := echoing 0xA5 }, ⟨rfl, rfl, nofun, rfl, fun _ => rfl⟩, rfl, rfl⟩

theorem test_witness_WriteEventCounts : TransferReady (opened cfgM 0) ∧ TransferReady (opened cfg0 0) :=
  ⟨transferReady_openedM, transferReady_opened0⟩

/-- Clock low, as after `CS_ASSERT`, and clock high, as after a byte. -/
theorem test_witness_WriteClockEdges :
    (∃ s : State, TransferReady s ∧ s.pins.sck.dir = .output ∧ s.pins.sck.lat = .level false) ∧
      (∃ s : State, TransferReady s ∧ s.pins.sck.dir = .output ∧ s.pins.sck.lat = .level true) :=
  ⟨⟨opened cfg0 0, transferReady_opened0, rfl, rfl⟩,
    ⟨{ opened cfg0 0 with pins := { (opened cfg0 0).pins with sck := { dir := .output, lat := .level true } } },
      ⟨rfl, rfl, nofun, rfl, (fun h => nomatch h)⟩, rfl, rfl⟩⟩

theorem test_witness_WireCommandsAreOneBracket : BracketReady (ready cfg0) ∧ BracketReady (lit cfg2) :=
  ⟨bracketReady_ready, bracketReady_lit⟩

theorem test_witness_BracketLeavesTheBusFree : BracketReady (ready cfg0) ∧ Shaped (ready cfg0) :=
  ⟨bracketReady_ready, shaped_ready0⟩

theorem test_witness_RegwrResult : BracketReady (ready cfg0) := bracketReady_ready

theorem test_witness_EndMarkResult :
    (ready cfg0).fault = false ∧ (ready cfg0).busReady = true ∧ (ready cfg0).isCsReady (ready cfg0).cfg.csDisp = true ∧
      (ready cfg0).sel = none := by decide

/-- Vector Q4 on one side, its records on the other. -/
theorem test_witness_WellFormedTablesAreRecordsAndSentinel :
    tableWellFormed [0x01, 0x00, 0x00] = true ∧ (∀ wire ∈ [[(0x00 : Byte)]], legalRecord wire) ∧
      [0x01, 0x00, 0x00] = [[(0x00 : Byte)]].flatMap recordBytes ++ 0 :: [] :=
  ⟨rfl, by simp [legalRecord], rfl⟩

/-- The shortest record and the longest (vector Q6); the bus not initialised; a held bus. -/
theorem test_witness_ExecTableResult :
    (BracketReady (ready cfg0) ∧ ∀ wire ∈ [[0x33], List.replicate 255 (0x07 : Byte)], legalRecord wire) ∧
      ((State.afterReset cfg0).fault = false ∧ (State.afterReset cfg0).busReady = false ∧
        (State.afterReset cfg0).isCsReady (State.afterReset cfg0).cfg.csDisp = false) ∧
      ((opened cfg0 0).fault = false ∧ (opened cfg0 0).busReady = true ∧
        (opened cfg0 0).isCsReady (opened cfg0 0).cfg.csDisp = true ∧ (opened cfg0 0).sel ≠ none) :=
  ⟨⟨bracketReady_ready, by unfold legalRecord; decide +kernel⟩, by decide, by decide⟩

/-- Vectors Q7 and I2. -/
theorem test_witness_BadTablesAreRefusedWhole :
    ((ready cfg0).fault = false ∧ (ready cfg0).sel = none ∧ (ready cfg0).busReady = true ∧
        (ready cfg0).isCsReady (ready cfg0).cfg.csDisp = true ∧ tableWellFormed [] = false) ∧
      (∃ s : State, s.fault = false ∧ s.sel = none ∧ tableWellFormed s.cfg.configTable = false) :=
  ⟨by decide, State.afterReset { cfg0 with configTable := [0x02, 0xA0] }, rfl, rfl, rfl⟩

/-- Reset with the two-record table of program P4. -/
theorem test_witness_DispInitResult :
    (State.afterReset cfg0).fault = false ∧ (State.afterReset cfg0).sel = none ∧ (State.afterReset cfg0).inFlight = false ∧
      Shaped (State.afterReset cfg0) ∧ (State.afterReset cfg0).cfg.csDisp < (State.afterReset cfg0).cfg.nCs ∧
      (∀ wire ∈ [[0xAE], [0xA0, (0x72 : Byte)]], legalRecord wire) ∧
      (State.afterReset cfg0).cfg.configTable = [[0xAE], [0xA0, (0x72 : Byte)]].flatMap recordBytes ++ 0 :: [] :=
  ⟨rfl, rfl, rfl, shaped_reset cfg0, by decide, by simp [legalRecord], rfl⟩

theorem test_witness_DispInitNeedsAFreeBus : (opened cfg0 0).fault = false ∧ (opened cfg0 0).sel ≠ none := by decide

/-- Example W6: a rail-settle delay of 20 and of 0. -/
theorem test_witness_DurationsDoNotSequence :
    (lit cfg0).timeless = (lit { cfg0 with tRailSettle := 0 }).timeless ∧
      (∃ t, exec (.send 0 0 []) (lit cfg0) = .next t) ∧
      (∃ t', exec (.send 0 0 []) (lit { cfg0 with tRailSettle := 0 }) = .next t') :=
  ⟨rfl, ⟨_, rfl⟩, ⟨_, rfl⟩⟩

theorem test_witness_SendResult :
    ((lit cfg0).fault = false ∧ (lit cfg0).dispReady = true ∧ (lit cfg0).sel = none ∧ (lit cfg0).inFlight = false ∧
        MisoReleased (lit cfg0) ∧ (lit cfg0).cfg.csDisp < (lit cfg0).pins.cs.length) ∧
      ((ready cfg0).fault = false ∧ (ready cfg0).dispReady = false) ∧
      (∃ s : State, s.fault = false ∧ s.dispReady = true ∧ s.sel ≠ none) :=
  ⟨⟨rfl, rfl, rfl, rfl, (fun h => nomatch h), by decide⟩, by decide, { opened cfg0 0 with dispReady := true }, rfl, rfl, nofun⟩

theorem test_witness_DisplayHearsSend :
    (lit cfg2).fault = false ∧ (lit cfg2).dispReady = true ∧ (lit cfg2).sel = none ∧ (lit cfg2).inFlight = false ∧
      MisoReleased (lit cfg2) ∧ (lit cfg2).pins.dc.lat = .level false :=
  ⟨rfl, rfl, rfl, rfl, (fun h => nomatch h), rfl⟩

theorem test_witness_DisplayHearsTheTable :
    BracketReady (lit cfg2) ∧ (∀ wire ∈ [[0x11, 0x22], [(0x33 : Byte)]], legalRecord wire) ∧
      (lit cfg2).pins.dc.lat = .level false :=
  ⟨bracketReady_lit, by simp [legalRecord], rfl⟩

theorem test_witness_DisplayHearsBringUp :
    (lit cfg2).fault = false ∧ (lit cfg2).sel = none ∧ (lit cfg2).inFlight = false ∧ BusInv (lit cfg2) ∧
      (∀ wire ∈ [[0xAE], [0xA0, (0x72 : Byte)]], legalRecord wire) ∧
      (lit cfg2).cfg.configTable = [[0xAE], [0xA0, (0x72 : Byte)]].flatMap recordBytes ++ 0 :: [] :=
  ⟨rfl, rfl, rfl, busInv_lit, by simp [legalRecord], rfl⟩

theorem test_witness_OtherFollowersAreLeftAlone :
    (∃ t, exec (.send 0 0 []) (lit cfg2) = .next t) ∧ 1 ≠ (lit cfg2).cfg.csDisp ∧ Instr.send 0 0 [] ≠ .csInit 1 ∧
      Instr.send 0 0 [] ≠ .csAssert 1 ∧ Instr.send 0 0 [] ≠ .csRelease 1 :=
  ⟨⟨_, rfl⟩, by decide, by decide, by decide, by decide⟩

theorem test_witness_BracketDuration : BracketReady (ready cfg0) := bracketReady_ready

theorem test_witness_XferStartResult :
    ((opened Config.default 0).cfg.hasAsync = true ∧ TransferReady (opened Config.default 0) ∧
        (opened Config.default 0).cfg.hasMiso = true) ∧
      ((State.afterReset cfgA).cfg.hasAsync = true ∧ (State.afterReset cfgA).fault = false ∧
        (State.afterReset cfgA).busy = false ∧ (State.afterReset cfgA).busReady = false) ∧
      ((ready cfgA).cfg.hasAsync = true ∧ (ready cfgA).fault = false ∧ (ready cfgA).busy = false ∧
        (ready cfgA).busReady = true ∧ (ready cfgA).sel = none) ∧
      ((opened cfgA 0).cfg.hasAsync = true ∧ (opened cfgA 0).fault = false ∧ (opened cfgA 0).busy = false ∧
        (opened cfgA 0).busReady = true ∧ (opened cfgA 0).sel ≠ none ∧ (opened cfgA 0).cfg.hasMiso = false) :=
  ⟨⟨rfl, transferReady_openedA, rfl⟩, by decide, by decide, by decide⟩

theorem test_witness_CallbackFollowsTheTransfer :
    TransferReady (opened Config.default 0) ∧ (opened Config.default 0).cfg.hasAsync = true ∧
      (∀ txByte n, Transfer.read 0xFF 1 = .read txByte n → (opened Config.default 0).cfg.hasMiso = true) :=
  ⟨transferReady_openedA, rfl, fun _ _ _ => rfl⟩

theorem test_witness_XferBlockingResult :
    TransferReady (opened Config.default 0) ∧ (opened Config.default 0).cfg.hasAsync = true ∧
      (∀ txByte n, Transfer.read 0xFF 1 = .read txByte n → (opened Config.default 0).cfg.hasMiso = true) :=
  test_witness_CallbackFollowsTheTransfer

theorem test_witness_WritesAndReadsAreBlockingTransfers : (opened cfgA 0).cfg.hasAsync = true := rfl

theorem test_witness_XferWaitResult : (ready cfgA).cfg.hasAsync = true ∧ (ready cfgA).busy = false := ⟨rfl, rfl⟩

/-- The state in which a host operation waits for a transfer. -/
def waiting (i : Instr) : State := { ready cfgA with busy := true, program := [.op (encode cfgA i)] }

/-- One state for each of the five operations. -/
theorem test_witness_TransfersHoldWhileBusy :
    (configAccepted cfgA = true ∧ (waiting .xferWait).fault = false ∧ (waiting .xferWait).cfg.hasAsync = true ∧
        (waiting .xferWait).busy = true ∧ (waiting .xferWait).cfg = cfgA) ∧
      (waiting (.write [0xFF])).fetch = .run (.write [0xFF]) [] ∧
      (waiting (.read 0xFF 1)).fetch = .run (.read 0xFF 1) [] ∧
      (waiting (.xferStart (.write [0x00]) (some 2) 7)).fetch = .run (.xferStart (.write [0x00]) (some 2) 7) [] ∧
      (waiting .xferWait).fetch = .run .xferWait [] ∧
      (waiting (.xferBlocking (.write []))).fetch = .run (.xferBlocking (.write [])) [] := by
  decide

/-- One state for each of the eight forms; `SEND` needs the display brought up. -/
theorem test_witness_BracketsHoldWhileBusy :
    (configAccepted (waiting .dispInit).cfg = true ∧ (waiting .dispInit).fault = false ∧
        (waiting .dispInit).cfg.hasAsync = true ∧ (waiting .dispInit).busy = true ∧ (waiting .dispInit).sel = none ∧
        (waiting .dispInit).busReady = true ∧ (waiting .dispInit).isCsReady (waiting .dispInit).cfg.csDisp = true) ∧
      ((waiting (.execTable [1, 0, 0])).fetch = .run (.execTable [1, 0, 0]) [] ∧ (1 : Byte) ≠ 0 ∧
        tableWellFormed [1, 0, 0] = true) ∧
      ((waiting .dispInit).fetch = .run .dispInit [] ∧ tableWellFormed (waiting .dispInit).cfg.configTable = true) ∧
      (({ waiting (.send 0 0 []) with dispReady := true } : State).fetch = .run (.send 0 0 []) []) ∧
      (waiting (.regwr 0x33 [])).fetch = .run (.regwr 0x33 []) [] ∧ (waiting (.cmd 0xAF [])).fetch = .run (.cmd 0xAF []) [] ∧
      (waiting (.colAddr 10 95)).fetch = .run (.colAddr 10 95) [] ∧
      (waiting (.rowAddr 63 63)).fetch = .run (.rowAddr 63 63) [] ∧ (waiting (.pixData [])).fetch = .run (.pixData []) [] := by
  decide

theorem test_witness_AsyncChangesNothingOnThePins :
    TransferReady (opened cfgM 0) ∧ (opened cfgM 0).busy = false ∧ (opened cfgM 0).cfg.hasMiso = true :=
  ⟨transferReady_openedM, rfl, rfl⟩

/-- Vectors F15 and F16. -/
theorem test_witness_BadOperationCodes :
    (ready cfg0).fault = false ∧ (ready cfg0).cfg.hasAsync = false ∧ assignedCode cfg0 0x07 = false ∧
      assignedCode cfg0 0x20 = false := by decide

/-- Vector F2. -/
theorem test_witness_FaultsArePrecise :
    ∃ t, (ready cfg0).fault = false ∧ exec (.write [0x55]) (ready cfg0) = .next t ∧ t.fault = true :=
  ⟨_, rfl, rfl, rfl⟩

/-- Vectors F17 and F18. -/
theorem test_witness_FaultsAreSticky :
    (∃ (s : State) (i : Instr) (rest : List Input), s.fault = true ∧ configAccepted s.cfg = true ∧ s.fetch = .run i rest) ∧
      (∃ (s : State) (rest : List Input), s.fault = true ∧ configAccepted s.cfg = true ∧ s.program = .reset :: rest ∧ s.sel = none) :=
  ⟨⟨{ ready cfg0 with fault := true, fcause := 2, program := [.op (encode cfg0 (.csAssert 0))] }, .csAssert 0, [], rfl, rfl, rfl⟩,
    ⟨{ ready cfg0 with fault := true, fcause := 2, program := [.reset] }, [], rfl, rfl, rfl, rfl⟩⟩

/-- A step that sends a frame. -/
theorem test_witness_StepKeepsTheInvariant :
    ∃ (s t : State), Inv s ∧ s.program ≠ [] ∧ Sys2Proof.Machine.step s = .next t :=
  ⟨{ lit cfg2 with program := [.op (encode cfg0 (.send 0 0 []))] }, _, inv_lit _, nofun, rfl⟩

theorem test_witness_BusRuleFollows : BusInv (opened cfg2 1) := busInv_opened

/-- An `AFTER_RESET` state with a program, whose unspecified registers hold what they please. -/
theorem afterReset_cfg2 (program : List Input) :
    AfterReset { State.afterReset cfg2 with txsr := 0xA5, tp := 7, ctx := 3, fcause := 9, program := program } :=
  ⟨rfl, rfl, rfl⟩

theorem test_witness_ResetMeetsTheInvariant : ∃ s, AfterReset s ∧ s.tp = 7 := ⟨_, afterReset_cfg2 [], rfl⟩

/-- `AFTER_RESET` is a clean entry, and the state after `BUS_INIT` is reached from it. -/
theorem test_witness_RunsMeetTheInvariant :
    (∃ s, CleanEntry s ∧ s.fcause = 9) ∧ (∃ s, Reachable s ∧ s.busReady = true) :=
  ⟨⟨_, ⟨.start _ (afterReset_cfg2 []), rfl, rfl, rfl⟩, rfl⟩,
    _, .step _ _ (.start _ (afterReset_cfg2 [.op (encode cfg2 .busInit)])) rfl, rfl⟩

/-- R284: a configuration that breaks R264 is in no start state. -/
theorem test_no_start_without_lines (s : State) (h : s.cfg.nCs = 0) : ¬ AfterReset s := by
  intro a
  have hw := a.config
  simp [Config.wf, h] at hw

theorem test_witness_ConfigurationIsNeverWritten :
    (∃ t, exec .dispInit (State.afterReset cfg0) = .next t) ∧
      (∃ t, Sys2Proof.Machine.step { State.afterReset cfg0 with program := [.op (encode cfg0 .busInit)] } = .next t) :=
  ⟨⟨_, rfl⟩, ⟨_, rfl⟩⟩

theorem test_witness_TraceOnlyGrows : ∃ t, exec .dispInit (State.afterReset cfg0) = .next t := ⟨_, rfl⟩

theorem test_witness_ReadyFlagsStay :
    (∃ t, exec .dispInit (lit cfg0) = .next t) ∧ (lit cfg0).busReady = true ∧ (lit cfg0).isCsReady 0 = true ∧
      (lit cfg0).dispReady = true ∧ (∃ (s t : State), exec .busInit s = .next t ∧ s.fault = true) :=
  ⟨⟨_, rfl⟩, rfl, rfl, rfl, { ready cfg0 with fault := true, fcause := 2 }, _, rfl, rfl⟩

theorem test_witness_OnlyDispInitAndSendWriteDc :
    (∃ t, exec (.pixData []) (lit cfg0) = .next t) ∧ Instr.pixData [] ≠ .dispInit ∧
      ∀ x y pix, Instr.pixData [] ≠ .send x y pix :=
  ⟨⟨_, rfl⟩, nofun, nofun⟩

theorem test_witness_OnlyDispInitDrivesResetAndPower :
    (∃ t, exec (.send 0 0 []) (lit cfg0) = .next t) ∧ Instr.send 0 0 [] ≠ .dispInit :=
  ⟨⟨_, rfl⟩, nofun⟩

theorem test_witness_MisoIsOnlyRead : ∃ t, exec .busInit (State.afterReset cfgM) = .next t := ⟨_, rfl⟩

theorem test_witness_OnlyReadsStore :
    (∃ t, exec (.write [0xFF]) (opened cfgM 0) = .next t) ∧ (∀ txByte n, Instr.write [0xFF] ≠ .read txByte n) ∧
      (∀ txByte n cb ctx, Instr.write [0xFF] ≠ .xferStart (.read txByte n) cb ctx) ∧
      (∀ txByte n, Instr.write [0xFF] ≠ .xferBlocking (.read txByte n)) :=
  ⟨⟨_, rfl⟩, nofun, nofun, nofun⟩

/-- The longest record (vector Q6), and a code of no operation. -/
theorem test_witness_DecodeEncode :
    (Instr.regwr 0x07 (List.replicate 254 0x07)).wf cfg0 = true ∧ (Instr.invalid 0xFF).wf cfg0 = true := by
  decide +kernel

/-- Vector Q2's first record, and vector Q5. -/
theorem test_witness_RecordsAreReadExactly :
    decodeRecord [0x02, 0x11, 0x22, 0x01, 0x33, 0x00] = .ok (.regwr 0x11 [0x22], [0x01, 0x33, 0x00]) ∧
      decodeRecord [0x00, 0x05, 0x05] = .ok (.endMark, [0x05, 0x05]) := by decide

theorem test_witness_StepRunsTheDecodedInstruction :
    (∃ (s : State) (e : Encoded) (i : Instr) (rest : List Input), configAccepted s.cfg = true ∧ s.program = .op e :: rest ∧ decode s.cfg e = .ok i ∧ holds i s = false) ∧
      (∃ (s : State) (e : Encoded) (i : Instr) (rest : List Input), configAccepted s.cfg = true ∧ s.program = .op e :: rest ∧ decode s.cfg e = .ok i ∧ holds i s = true) ∧
      (∃ s : State, configAccepted s.cfg = true ∧ s.program = []) :=
  ⟨⟨{ ready cfg0 with program := [.op (encode cfg0 (.csAssert 0)), .reset] }, _, .csAssert 0, _, rfl, rfl, rfl, rfl⟩,
    ⟨waiting .xferWait, _, .xferWait, _, rfl, rfl, rfl, rfl⟩, ready cfg0, rfl, rfl⟩

/-- One state for each refusal. -/
theorem test_witness_WhatStopsAStep :
    (∃ s, Sys2Proof.Machine.step s = .refused .badConfiguration) ∧
      (∃ s, Sys2Proof.Machine.step s = .refused .resetInOpenBracket) ∧
      (∃ s, Sys2Proof.Machine.step s = .refused (.undecodable .recordRunsPastEnd)) :=
  ⟨⟨ready { cfg0 with csDisp := 1 }, rfl⟩, ⟨{ opened cfg0 0 with program := [.reset] }, rfl⟩,
    ⟨{ ready cfg0 with program := [.op (.record [0x02, 0x11])] }, rfl⟩⟩

end Sys2Proof.Tests
end

section
/-! PROOFS. What an instruction and a step can do, and what no operation undoes: the configuration and the program stay, the
trace is appended to within R32, no ready flag and no fault is cleared. -/

namespace Sys2Proof.Machine

/-! ### What an instruction and a step can do -/

/-- An instruction that answers a next state did nothing, ran its body, or recorded a fault. -/
theorem exec_next_cases {i : Instr} {s t : State} (h : exec i s = .next t) :
    t = s ∨ (verdictOf i s = .go ∧ bodyOf i s = some t) ∨ ∃ c : Cause, t = recorded s c.code := by
  rw [exec_eq] at h
  rcases operateTable_cases (verdictOf i s) (bodyOf i) s with
    he | ⟨-, hv, ⟨u, hb, he⟩ | ⟨-, he⟩⟩ | ⟨-, c, -, he⟩ <;> rw [he] at h <;> cases h
  · exact .inl rfl
  · exact .inr (.inl ⟨hv, hb⟩)
  · exact .inr (.inr ⟨c, rfl⟩)

/-- A step that answers a next state left the machine as it was, reset it between brackets, or ran an instruction. -/
theorem step_next_cases {s t : State} (h : step s = .next t) :
    configAccepted s.cfg = true ∧
      (t = s ∨ (∃ rest, s.sel = none ∧ t = State.applyReset { s with program := rest }) ∨
        ∃ i rest, exec i { s with program := rest } = .next t) := by
  unfold step at h
  split at h
  case isFalse => cases h
  case isTrue hc =>
    refine ⟨hc, ?_⟩
    split at h
    · cases h; exact .inl rfl
    · next rest _ =>
      unfold resetEvent at h
      split at h
      · cases h
      · next hsel => cases h; exact .inr (.inl ⟨rest, by simpa [State.busHeld] using hsel, rfl⟩)
    · next i rest _ =>
      split at h
      · cases h; exact .inl rfl
      · exact .inr (.inr ⟨i, rest, h⟩)
    · cases h

/-! ### The frame of every operation -/

/-- What no operation undoes, from `s` to `t`. -/
structure OpFrame (s t : State) : Prop where
  cfg : t.cfg = s.cfg
  program : t.program = s.program
  fault : s.fault = true → t.fault = true
  busReady : s.busReady = true → t.busReady = true
  csReady : ∀ k, s.isCsReady k = true → t.isCsReady k = true
  dispReady : s.dispReady = true → t.dispReady = true
  /-- R45, with R32 of every new event. -/
  trace : ∃ ev, t.trace = s.trace ++ ev ∧ ∀ e ∈ ev, e.breaksMisoRule = false

theorem OpFrame.refl (s : State) : OpFrame s s := ⟨rfl, rfl, id, id, fun _ => id, id, [], by simp, by simp⟩

theorem OpFrame.trans {s t u : State} (a : OpFrame s t) (b : OpFrame t u) : OpFrame s u := by
  obtain ⟨ev, ha, hev⟩ := a.trace
  obtain ⟨ev', hb, hev'⟩ := b.trace
  refine ⟨b.cfg.trans a.cfg, b.program.trans a.program, b.fault ∘ a.fault, b.busReady ∘ a.busReady,
    fun k => b.csReady k ∘ a.csReady k, b.dispReady ∘ a.dispReady, ev ++ ev', by rw [hb, ha, List.append_assoc], ?_⟩
  intro e he
  rcases List.mem_append.1 he with he | he
  · exact hev e he
  · exact hev' e he

theorem OpFrame.recorded (s : State) (code : Nat) : OpFrame s (recorded s code) :=
  ⟨rfl, rfl, fun _ => rfl, id, fun _ => id, id, [], by simp [Machine.recorded], by simp⟩

theorem OpFrame.setSession (s : State) (x : Session) : OpFrame s { s with session := x } :=
  ⟨rfl, rfl, id, id, fun _ => id, id, [], by simp, by simp⟩

theorem OpFrame.setDispReady (s : State) : OpFrame s s.setDispReady :=
  ⟨rfl, rfl, id, id, fun _ => id, fun _ => rfl, [], by simp, by simp⟩

theorem OpFrame.delay (s : State) (us : Nat) : OpFrame s (s.delay us) :=
  ⟨rfl, rfl, id, id, fun _ => id, id, _, rfl, by simp [Event.breaksMisoRule]⟩

theorem OpFrame.pinSet (s : State) {l : Line} (v : Bool) (h : l ≠ .miso) : OpFrame s (s.pinSet l v) :=
  ⟨rfl, rfl, id, id, fun _ => id, id, _, rfl, by simp [Event.breaksMisoRule, h]⟩

theorem OpFrame.setDc (s : State) (v : Bool) (mode : DcMode) : OpFrame s (s.setDc v mode) :=
  (OpFrame.pinSet s v (by simp)).trans (.setSession _ _)

/-- Marking a line ready clears no other line's flag. -/
theorem isCsReady_of_set {s t : State} {k : Nat} (ht : t.csReady = s.csReady.set k true) (j : Nat)
    (h : s.isCsReady j = true) : t.isCsReady j = true := by
  unfold State.isCsReady at h ⊢
  rw [ht]
  grind

/-! ### Events within R32 -/

theorem Event.breaksMisoRule_of_ofTransfer {e : Event} (h : Event.ofTransfer e = true) : e.breaksMisoRule = false := by
  unfold Event.ofTransfer at h
  split at h
  case h_6 => cases h
  all_goals rfl

theorem Event.breaksMisoRule_of_ofBracket {k : Nat} {e : Event} (h : Event.ofBracket k e) : e.breaksMisoRule = false := by
  rcases h with h | rfl | rfl | rfl | rfl | ⟨v, rfl⟩ | ⟨c, rfl⟩
  · exact Event.breaksMisoRule_of_ofTransfer h
  all_goals rfl

theorem bringUpEvents_within_misoRule (cfg : Config) : ∀ e ∈ bringUpEvents cfg, e.breaksMisoRule = false := by
  cases hm : cfg.hasMiso <;> cases hg : cfg.hasPwrGnd <;> simp [bringUpEvents, hm, hg, Event.breaksMisoRule]

/-! ### The frame of each shared operation -/

theorem IssuedFrame.opFrame {s t : State} (f : IssuedFrame s t) : OpFrame s t := by
  obtain ⟨tx, rx, bc, n, buf, env, rxbuf, ev, cb, ctx, ci, busy, hev, rfl⟩ := f.same
  refine ⟨rfl, rfl, id, id, fun _ => id, id, ev, rfl, fun e he => ?_⟩
  rcases hev e he with h | ⟨c, rfl⟩
  · exact Event.breaksMisoRule_of_ofTransfer h
  · rfl

theorem TableFrame.opFrame {s t : State} (f : TableFrame s t) : OpFrame s t := by
  obtain ⟨tx, rx, bc, n, tp, pins, sel, env, ev, cb, ctx, ci, busy, hev, rfl, -⟩ := f.same
  exact ⟨rfl, rfl, id, id, fun _ => id, id, ev, rfl, fun e he => Event.breaksMisoRule_of_ofBracket (hev e he)⟩

/-- A byte by itself changes no more than a transfer does. -/
theorem State.shiftByte_issued (s : State) (b : Byte) : IssuedFrame s (s.shiftByte b) := by
  have hrx := State.shiftByte_rxbuf s b
  obtain ⟨tx, rx, bc, n, buf, env, rxbuf, ev, hev, he⟩ := State.shiftByte_frame s b
  refine ⟨⟨tx, rx, bc, n, buf, env, rxbuf, ev, s.cb, s.ctx, s.ctxIdx, s.busy, fun e h => .inl (hev e h), he⟩, ?_, ?_, ?_⟩
  · rw [he]; exact id
  · rw [he]; simp
  · rw [hrx]; exact id

theorem State.bracket_tframe (s : State) (bytes : List Byte) : TableFrame s (s.bracket bytes) :=
  (State.bracket_bframe s bytes).tframe

/-- The interpreter, over any bytes and from any offset. -/
theorem State.runTable_tframe {s t : State} {table : List Byte} {fuel : Nat} (h : s.runTable table fuel = some t) :
    TableFrame s t := by
  induction fuel generalizing s with
  | zero => cases h
  | succ fuel ih =>
    rw [State.runTable] at h
    split at h
    · exact (State.regwr_tframe s _ _).trans (ih h)
    · cases h; exact .refl s
    · cases h

theorem State.execTable_tframe {s t : State} {table : List Byte} (h : s.execTable table = some t) : TableFrame s t :=
  (TableFrame.setTp s 0).trans (State.runTable_tframe h)

theorem State.busInit_opFrame (s : State) : OpFrame s s.busInit := by
  refine ⟨?_, ?_, ?_, fun _ => rfl, ?_, ?_, [.dirIn .sck, .dirIn .mosi] ++ if s.cfg.hasMiso then [.dirIn .miso] else [],
    ?_, ?_⟩ <;> cases hm : s.cfg.hasMiso <;> simp [State.busInit, State.isCsReady, hm, Event.breaksMisoRule]

theorem State.csInit_opFrame (s : State) (k : Nat) : OpFrame s (s.csInit k) :=
  ⟨rfl, rfl, id, id, isCsReady_of_set rfl, id, [.set (.cs k) (!s.cfg.csActive), .dirOut (.cs k)],
    by simp [State.csInit], by simp [Event.breaksMisoRule]⟩

theorem State.csAssert_opFrame (s : State) (k : Nat) : OpFrame s (s.csAssert k) := by
  rw [State.csAssert_eq]
  exact ⟨rfl, rfl, id, id, fun _ => id, id, _, rfl, by simp [assertEvents, Event.breaksMisoRule]⟩

theorem State.csRelease_opFrame (s : State) (k : Nat) : OpFrame s (s.csRelease k) := by
  rw [State.csRelease_eq]
  exact ⟨rfl, rfl, id, id, fun _ => id, id, _, rfl, by simp [releaseEvents, Event.breaksMisoRule]⟩

/-! ### SEND and DISP_INIT as brackets and the writes between them -/

/-- `SEND` (R176): the two window brackets, the window recorded, data mode, the pixels' bracket, command mode. -/
theorem State.send_frames (s : State) (x y : Byte) (pix : List Byte) :
    ∃ u win v, TableFrame s u ∧
      TableFrame (State.setDc { u with session := { u.session with win := win } } u.cfg.dcData .data) v ∧
      s.send x y pix = v.setDc v.cfg.dcCmd .cmd :=
  ⟨(s.colAddr x s.cfg.colEnd).rowAddr y (s.colAddr x s.cfg.colEnd).cfg.rowEnd, _, _,
    (State.bracket_tframe s _).trans (State.bracket_tframe _ _), State.bracket_tframe _ pix, rfl⟩

theorem State.send_opFrame (s : State) (x y : Byte) (pix : List Byte) : OpFrame s (s.send x y pix) := by
  obtain ⟨u, win, v, hu, hv, he⟩ := s.send_frames x y pix
  rw [he]
  exact hu.opFrame.trans <| (OpFrame.setSession _ _).trans <| (OpFrame.setDc _ _ _).trans <|
    hv.opFrame.trans (.setDc _ _ _)

/-- Bring-up steps 1 to 6 (R170), before the configuration table. -/
def State.bringUp (s : State) : State := s.dispStep1.dispStep2.dispStep3.dispStep4.dispStep5.dispStep6

/-- `DISP_INIT` (R172): steps 1 to 6, the configuration table, the high-voltage rail, the display-on bracket, and the
record of it. -/
theorem State.dispInit_frames {s t : State} (h : s.dispInit = some t) :
    ∃ u v, TableFrame s.bringUp u ∧
      TableFrame (State.dispStep8 { u with session := { u.session with phase := .configured, win := none } }) v ∧
      t = State.setDispReady { v.delay v.cfg.tDisponSettle with session := { v.session with phase := .on } } := by
  unfold State.dispInit at h
  split at h
  case h_2 => cases h
  case h_1 w hw =>
    cases h
    unfold State.dispStep7 at hw
    split at hw
    case h_2 => cases hw
    case h_1 u hu =>
      cases hw
      exact ⟨u, _, State.execTable_tframe hu, State.bracket_tframe _ _, rfl⟩

theorem State.bringUp_opFrame (s : State) : OpFrame s s.bringUp := by
  rw [State.bringUp, State.dispSteps_eq]
  exact ⟨rfl, rfl, id, fun _ => rfl, isCsReady_of_set rfl, id, _, rfl, bringUpEvents_within_misoRule s.cfg⟩

theorem State.dispStep8_opFrame (s : State) : OpFrame s s.dispStep8 :=
  (OpFrame.pinSet s _ (by simp)).trans <| (OpFrame.setSession _ _).trans (.delay _ _)

theorem State.dispInit_opFrame {s t : State} (h : s.dispInit = some t) : OpFrame s t := by
  obtain ⟨u, v, hu, hv, rfl⟩ := State.dispInit_frames h
  exact s.bringUp_opFrame.trans <| hu.opFrame.trans <| (OpFrame.setSession _ _).trans <|
    (State.dispStep8_opFrame _).trans <| hv.opFrame.trans <| (OpFrame.delay _ _).trans <|
    (OpFrame.setSession _ _).trans (.setDispReady _)

/-! ### Every instruction -/

theorem bodyOf_opFrame {i : Instr} {s t : State} (hv : verdictOf i s = .go) (h : bodyOf i s = some t) : OpFrame s t := by
  cases i with
  | execTable table => exact (State.execTable_tframe h).opFrame
  | dispInit => exact State.dispInit_opFrame h
  | busInit => cases h; exact s.busInit_opFrame
  | csInit k => cases h; exact s.csInit_opFrame k
  | csAssert k => cases h; exact s.csAssert_opFrame k
  | csRelease k => cases h; exact s.csRelease_opFrame k
  | write buf => cases h; exact (s.transfer_issued _).opFrame
  | read txByte n => cases h; exact (s.transfer_issued _).opFrame
  | send x y pix => cases h; exact s.send_opFrame x y pix
  | xferStart tr cb ctx => cases h; exact (s.startTransfer_issued tr cb ctx (needsAsync_go hv).2).opFrame
  | xferWait => cases h; exact .refl s
  | xferBlocking tr => cases h; exact (s.blockingTransfer_issued tr (needsAsync_go hv).2).opFrame
  | invalid code => cases h; exact .refl s
  | regwr reg vals => cases h; exact (s.regwr_tframe reg vals).opFrame
  | endMark => cases h; exact .refl s
  | cmd reg vals => cases h; exact (s.bracket_tframe _).opFrame
  | colAddr first last => cases h; exact (s.bracket_tframe _).opFrame
  | rowAddr first last => cases h; exact (s.bracket_tframe _).opFrame
  | pixData pix => cases h; exact (s.bracket_tframe _).opFrame
  | byte b => cases h; exact (s.shiftByte_issued b).opFrame

theorem exec_opFrame {i : Instr} {s t : State} (h : exec i s = .next t) : OpFrame s t := by
  rcases exec_next_cases h with rfl | ⟨hv, hb⟩ | ⟨c, rfl⟩
  · exact .refl _
  · exact bodyOf_opFrame hv hb
  · exact .recorded s c.code

theorem step_cfg {s t : State} (h : step s = .next t) : t.cfg = s.cfg := by
  obtain ⟨-, rfl | ⟨rest, -, rfl⟩ | ⟨i, rest, he⟩⟩ := step_next_cases h
  · rfl
  · rfl
  · exact (exec_opFrame he).cfg

/-- Settles O48, from the frame of every operation. -/
theorem configurationIsNeverWritten : Obligations.ConfigurationIsNeverWritten :=
  ⟨fun _ _ _ h => ⟨(exec_opFrame h).cfg, (exec_opFrame h).program⟩, fun _ _ h => step_cfg h⟩

/-- Settles O49, from the frame of every operation. -/
theorem traceOnlyGrows : Obligations.TraceOnlyGrows := by
  intro i s t h
  obtain ⟨ev, hev, -⟩ := (exec_opFrame h).trace
  exact ⟨ev, hev⟩

/-- Settles O50, from the frame of every operation. -/
theorem readyFlagsStay : Obligations.ReadyFlagsStay :=
  fun _ _ _ h =>
    have f := exec_opFrame h
    ⟨f.busReady, f.csReady, f.dispReady, f.fault⟩

/-- Settles O53, from the frame of every operation. -/
theorem misoIsOnlyRead : Obligations.MisoIsOnlyRead := by
  intro i s t h e he
  obtain ⟨ev, ht, hev⟩ := (exec_opFrame h).trace
  rw [appended, ht, List.drop_left] at he
  exact hev e he

end Sys2Proof.Machine
end

section
/-! PROOFS. Which changes keep the bus invariants and the session's, and that transfers and brackets make no other. -/

namespace Sys2Proof.Machine

/-! ### Chip-select lines by their index -/

/-- Replacing the entry of one chip-select line, seen at every line. -/
theorem pin_of_cs_set {s t : State} {k : Nat} {q : Pin} (ht : t.pins.cs = s.pins.cs.set k q)
    (hk : k < s.pins.cs.length) (j : Nat) : t.pin (.cs j) = if j = k then q else s.pin (.cs j) := by
  simp only [State.pin, Pins.get, ht]
  grind

theorem isCsReady_of_cs_set {s t : State} {k : Nat} (ht : t.csReady = s.csReady.set k true)
    (hk : k < s.csReady.length) (j : Nat) : t.isCsReady j = if j = k then true else s.isCsReady j := by
  simp only [State.isCsReady, ht]
  grind

/-! ### Which changes keep the bus invariants -/

/-- Nothing the bus invariants speak of differs, but that the bus may have become ready. -/
structure BusSame (s t : State) : Prop where
  cfg : t.cfg = s.cfg
  sck : t.pins.sck.dir = s.pins.sck.dir
  mosi : t.pins.mosi.dir = s.pins.mosi.dir
  miso : t.pins.miso.dir = s.pins.miso.dir
  cs : t.pins.cs = s.pins.cs
  csReady : t.csReady = s.csReady
  sel : t.sel = s.sel
  busReady : s.busReady = true → t.busReady = true

theorem BusSame.busInv {s t : State} (f : BusSame s t) (h : BusInv s) : BusInv t := by
  have hpin : ∀ j, t.pin (.cs j) = s.pin (.cs j) := fun j => by simp only [State.pin, Pins.get, f.cs]
  have hready : ∀ j, t.isCsReady j = s.isCsReady j := fun j => by simp only [State.isCsReady, f.csReady]
  constructor
  case shaped => exact ⟨by rw [f.cs, f.cfg, h.shaped.pins], by rw [f.csReady, f.cfg, h.shaped.ready]⟩
  case misoInput => rw [f.miso]; exact h.misoInput
  all_goals simp only [hpin, hready, f.cfg, f.sck, f.mosi, f.sel]
  case released => exact h.released
  case low => exact h.low
  case idleHigh => exact h.idleHigh
  case csDriven => exact h.csDriven
  case selected =>
    intro k hk
    obtain ⟨hsck, hmosi, hlow, hrdy, hbus⟩ := h.selected k hk
    exact ⟨hsck, hmosi, hlow, hrdy, f.busReady hbus⟩

/-- From `s` to `t` the bus is given up and line `k` stands at its released level (R123, R126). -/
structure LineParked (k : Nat) (s t : State) : Prop where
  cfg : t.cfg = s.cfg
  pinCount : t.pins.cs.length = s.pins.cs.length
  readyCount : t.csReady.length = s.csReady.length
  free : t.sel = none
  sck : t.pins.sck.dir = .input
  mosi : t.pins.mosi.dir = .input
  miso : s.pins.miso.dir = .input → t.pins.miso.dir = .input
  parked : (t.pin (.cs k)).lat = .level (!s.cfg.csActive)
  driven : (s.isCsReady k = true → (s.pin (.cs k)).dir = .output) → t.isCsReady k = true →
    (t.pin (.cs k)).dir = .output
  others : ∀ j, j ≠ k → t.pin (.cs j) = s.pin (.cs j) ∧ t.isCsReady j = s.isCsReady j

theorem LineParked.busInv {k : Nat} {s t : State} (f : LineParked k s t) (hsel : s.sel = none ∨ s.sel = some k)
    (h : BusInv s) : BusInv t := by
  have hne : ∀ j, j ≠ k → s.sel ≠ some j := by
    rintro j hj hs
    rcases hsel with hn | hn <;> rw [hn] at hs <;> cases hs
    exact hj rfl
  constructor
  case shaped => exact ⟨by rw [f.pinCount, f.cfg, h.shaped.pins], by rw [f.readyCount, f.cfg, h.shaped.ready]⟩
  case released => exact fun _ => ⟨f.sck, f.mosi⟩
  case selected => intro j hj; rw [f.free] at hj; cases hj
  case misoInput => exact f.miso h.misoInput
  case low =>
    intro j hj
    rw [f.cfg] at hj
    by_cases hjk : j = k
    · subst hjk
      rw [f.parked] at hj
      simp at hj
    · rw [(f.others j hjk).1] at hj
      exact absurd (h.low j hj) (hne j hjk)
  case idleHigh =>
    intro j hj _
    rw [f.cfg]
    by_cases hjk : j = k
    · rw [hjk, f.parked]
    · rw [(f.others j hjk).2] at hj
      rw [(f.others j hjk).1]
      exact h.idleHigh j hj (hne j hjk)
  case csDriven =>
    intro j hj
    by_cases hjk : j = k
    · subst hjk
      exact f.driven (h.csDriven j) hj
    · rw [(f.others j hjk).2] at hj
      rw [(f.others j hjk).1]
      exact h.csDriven j hj

/-- `CS_INIT k` on a free bus (R123). -/
theorem State.csInit_parked {s : State} {k : Nat} (h : BusInv s) (hk : k < s.cfg.nCs) (hsel : s.sel = none) :
    LineParked k s (s.csInit k) := by
  have hp : k < s.pins.cs.length := h.shaped.pins ▸ hk
  have hcs : (s.csInit k).pins.cs = s.pins.cs.set k { dir := .output, lat := .level (!s.cfg.csActive) } := by
    simp [State.csInit, Pins.put, Pins.get, hp]
  have hpin := pin_of_cs_set hcs hp
  have hready := isCsReady_of_cs_set (s := s) (t := s.csInit k) rfl (h.shaped.ready ▸ hk)
  exact {
    cfg := rfl
    pinCount := by rw [hcs, List.length_set]
    readyCount := by simp [State.csInit]
    free := hsel
    sck := (h.released hsel).1
    mosi := (h.released hsel).2
    miso := id
    parked := by simp [hpin]
    driven := by simp [hpin]
    others := fun j hj => by simp [hpin, hready, hj] }

/-- Bring-up steps 1 to 6 on a free bus (R170). -/
theorem State.bringUp_parked {s : State} (h : BusInv s) (hk : s.cfg.csDisp < s.cfg.nCs) (hsel : s.sel = none) :
    LineParked s.cfg.csDisp s s.bringUp := by
  rw [State.bringUp, State.dispSteps_eq]
  generalize ht : ({ s with pins := _, busReady := _, csReady := _, session := _, trace := _ } : State) = t
  have hpin := pin_of_cs_set (s := s) (t := t) (by subst ht; rfl) (h.shaped.pins ▸ hk)
  have hready := isCsReady_of_cs_set (s := s) (t := t) (by subst ht; rfl) (h.shaped.ready ▸ hk)
  subst ht
  exact {
    cfg := rfl
    pinCount := List.length_set
    readyCount := List.length_set
    free := hsel
    sck := rfl
    mosi := rfl
    miso := fun hm => by cases hM : s.cfg.hasMiso <;> simp [hm]
    parked := by simp [hpin]
    driven := by simp [hpin]
    others := fun j hj => by simp [hpin, hready, hj] }

/-- Clock and data-out released and line `k` at its released level, whatever else was written: `CS_RELEASE k` (R126) and a
whole bracket (R161). -/
theorem lineParked_of_released {k : Nat} {s t : State} {a b : Latch} (hk : k < s.pins.cs.length) (hcfg : t.cfg = s.cfg)
    (hready : t.csReady = s.csReady) (hfree : t.sel = none)
    (hpins : t.pins = { s.pins with
      sck := { dir := .input, lat := a }
      mosi := { dir := .input, lat := b }
      cs := s.pins.cs.set k { dir := (s.pin (.cs k)).dir, lat := .level (!s.cfg.csActive) } }) :
    LineParked k s t := by
  have hpin := pin_of_cs_set (s := s) (t := t) (by rw [hpins]) hk
  have hrdy : ∀ j, t.isCsReady j = s.isCsReady j := fun j => by simp only [State.isCsReady, hready]
  exact {
    cfg := hcfg
    pinCount := by rw [hpins]; exact List.length_set
    readyCount := by rw [hready]
    free := hfree
    sck := by rw [hpins]
    mosi := by rw [hpins]
    miso := by rw [hpins]; exact id
    parked := by simp [hpin]
    driven := by simp [hpin, hrdy]
    others := fun j hj => by simp [hpin, hrdy, hj] }

theorem State.csRelease_busInv {s : State} {k : Nat} (h : BusInv s) (hk : k < s.cfg.nCs) (hsel : s.sel = some k) :
    BusInv (s.csRelease k) := by
  refine LineParked.busInv (k := k) ?_ (.inr hsel) h
  rw [State.csRelease_eq]
  exact lineParked_of_released (h.shaped.pins ▸ hk) rfl rfl rfl rfl

/-- `CS_ASSERT k` of a ready line on a free bus (R124). -/
theorem State.csAssert_busInv {s : State} {k : Nat} (h : BusInv s) (hk : k < s.cfg.nCs) (hbus : s.busReady = true)
    (hready : s.isCsReady k = true) (hsel : s.sel = none) : BusInv (s.csAssert k) := by
  rw [State.csAssert_eq]
  generalize ht : ({ s with pins := _, sel := _, trace := _ } : State) = t
  have hp : k < s.pins.cs.length := h.shaped.pins ▸ hk
  have hpin := pin_of_cs_set (s := s) (t := t) (by subst ht; rfl) hp
  have hrdy : ∀ j, t.isCsReady j = s.isCsReady j := by subst ht; exact fun _ => rfl
  have hcfg : t.cfg = s.cfg := by subst ht; rfl
  have htsel : t.sel = some k := by subst ht; rfl
  constructor
  case shaped => subst ht; exact ⟨List.length_set.trans h.shaped.pins, h.shaped.ready⟩
  case misoInput => subst ht; exact h.misoInput
  case released => rw [htsel]; nofun
  case selected =>
    intro j hj
    obtain rfl : k = j := by simpa [htsel] using hj
    refine ⟨by subst ht; rfl, by subst ht; rfl, by simp [hpin, hcfg], by rw [hrdy]; exact hready,
      by subst ht; exact hbus⟩
  case low =>
    intro j hj
    by_cases hjk : j = k
    · rw [htsel, hjk]
    · rw [hpin, if_neg hjk, hcfg] at hj
      simp [h.low j hj] at hsel
  case idleHigh =>
    intro j hj hne
    have hjk : j ≠ k := fun e => hne (by rw [htsel, e])
    rw [hpin, if_neg hjk, hcfg]
    exact h.idleHigh j (by rwa [hrdy] at hj) (by simp [hsel])
  case csDriven =>
    intro j hj
    rw [hrdy] at hj
    by_cases hjk : j = k
    · simpa [hpin, hjk] using h.csDriven k hready
    · simpa [hpin, hjk] using h.csDriven j hj

/-- `BUS_INIT` on a free bus (R122): the lines it makes inputs are inputs already. -/
theorem State.busInit_busSame {s : State} (h : BusInv s) (hsel : s.sel = none) : BusSame s s.busInit := by
  obtain ⟨hsck, hmosi⟩ := h.released hsel
  have hmiso := h.misoInput
  cases hm : s.cfg.hasMiso <;>
    exact ⟨by simp [State.busInit, hm], by simp [State.busInit, hm, Pins.put, hsck],
      by simp [State.busInit, hm, Pins.put, hmosi], by simp [State.busInit, hm, Pins.put, hmiso],
      by simp [State.busInit, hm, Pins.put], by simp [State.busInit, hm], by simp [State.busInit, hm], fun _ => rfl⟩

/-! ### Which changes keep the session's -/

/-- Nothing the session's invariants speak of differs, but that lines and bus may have become ready. -/
structure SessionSame (s t : State) : Prop where
  cfg : t.cfg = s.cfg
  rail : t.session.rail = s.session.rail
  resetLine : t.session.resetLine = s.session.resetLine
  dcMode : t.session.dcMode = s.session.dcMode
  phase : t.session.phase = s.session.phase
  dispReady : t.dispReady = s.dispReady
  dc : t.pins.dc = s.pins.dc
  res : t.pins.res = s.pins.res
  pwrGnd : t.pins.pwrGnd = s.pins.pwrGnd
  pwrHv : t.pins.pwrHv = s.pins.pwrHv
  busReady : s.busReady = true → t.busReady = true
  csReady : ∀ k, s.isCsReady k = true → t.isCsReady k = true

theorem SessionSame.trans {s t u : State} (a : SessionSame s t) (b : SessionSame t u) : SessionSame s u :=
  ⟨b.cfg.trans a.cfg, b.rail.trans a.rail, b.resetLine.trans a.resetLine, b.dcMode.trans a.dcMode,
    b.phase.trans a.phase, b.dispReady.trans a.dispReady, b.dc.trans a.dc, b.res.trans a.res,
    b.pwrGnd.trans a.pwrGnd, b.pwrHv.trans a.pwrHv, b.busReady ∘ a.busReady, fun k => b.csReady k ∘ a.csReady k⟩

theorem SessionSame.sessionInv {s t : State} (f : SessionSame s t) (h : SessionInv s) : SessionInv t := by
  constructor
  case on =>
    intro ho
    obtain ⟨hrail, hres, hdc, hdcOut, hresOut, hhvOut, hgndOut, hbus, hcs⟩ := h.on (f.phase ▸ ho)
    rw [f.rail, f.resetLine, f.dcMode, f.dc, f.res, f.pwrHv, f.pwrGnd, f.cfg]
    exact ⟨hrail, hres, hdc, hdcOut, hresOut, hhvOut, hgndOut, f.busReady hbus, f.csReady _ hcs⟩
  all_goals simp only [f.cfg, f.rail, f.resetLine, f.dcMode, f.phase, f.dispReady, f.dc, f.res, f.pwrGnd, f.pwrHv]
  case dcCmd => exact h.dcCmd
  case dcData => exact h.dcData
  case resetAsserted => exact h.resetAsserted
  case resetReleased => exact h.resetReleased
  case railGnd => exact h.railGnd
  case railFull => exact h.railFull
  case railNotOff => exact h.railNotOff
  case ready => exact h.ready

/-! ### Transfers and brackets -/

theorem Pins.written_eq (p : Pins) (buf : List Byte) :
    ∃ a b, p.written buf = { p with sck := { p.sck with lat := a }, mosi := { p.mosi with lat := b } } := by
  unfold Pins.written
  split <;> exact ⟨_, _, rfl⟩

theorem IssuedFrame.busSame {s t : State} (f : IssuedFrame s t) : BusSame s t := by
  obtain ⟨tx, rx, bc, n, buf, env, rxbuf, ev, cb, ctx, ci, busy, -, rfl⟩ := f.same
  obtain ⟨a, b, hp⟩ := s.pins.written_eq buf
  rw [hp]
  exact ⟨rfl, rfl, rfl, rfl, rfl, rfl, rfl, id⟩

theorem IssuedFrame.sessionSame {s t : State} (f : IssuedFrame s t) : SessionSame s t := by
  obtain ⟨tx, rx, bc, n, buf, env, rxbuf, ev, cb, ctx, ci, busy, -, rfl⟩ := f.same
  obtain ⟨a, b, hp⟩ := s.pins.written_eq buf
  rw [hp]
  exact ⟨rfl, rfl, rfl, rfl, rfl, rfl, rfl, rfl, rfl, rfl, id, fun _ => id⟩

theorem IssuedFrame.inv {s t : State} (f : IssuedFrame s t) (h : Inv s) : Inv t :=
  ⟨f.busSame.busInv h.bus, f.sessionSame.sessionInv h.session, f.idle h.idle, f.wf h.memory⟩

theorem TableFrame.rxbuf {s t : State} (f : TableFrame s t) : t.rxbuf = s.rxbuf := by
  obtain ⟨tx, rx, bc, n, tp, pins, sel, env, ev, cb, ctx, ci, busy, -, rfl, -⟩ := f.same
  rfl

/-- Brackets on a free bus leave it free. -/
theorem TableFrame.free {s t : State} (f : TableFrame s t) (hsel : s.sel = none) : t.sel = none := by
  obtain ⟨tx, rx, bc, n, tp, pins, sel, env, ev, cb, ctx, ci, busy, -, rfl, ⟨-, hs⟩ | ⟨-, -, -, hs⟩⟩ := f.same
  · exact hs.trans hsel
  · exact hs

theorem TableFrame.busInv {s t : State} (f : TableFrame s t) (h : BusInv s) (hk : s.cfg.csDisp < s.cfg.nCs)
    (hsel : s.sel = none) : BusInv t := by
  obtain ⟨tx, rx, bc, n, tp, pins, sel, env, ev, cb, ctx, ci, busy, -, rfl, ⟨rfl, rfl⟩ | ⟨a, b, rfl, rfl⟩⟩ := f.same
  · exact BusSame.busInv (s := s) ⟨rfl, rfl, rfl, rfl, rfl, rfl, rfl, id⟩ h
  · refine LineParked.busInv (s := s) (k := s.cfg.csDisp) ?_ (.inl hsel) h
    exact lineParked_of_released (h.shaped.pins ▸ hk) rfl rfl rfl rfl

theorem TableFrame.sessionSame {s t : State} (f : TableFrame s t) : SessionSame s t := by
  obtain ⟨tx, rx, bc, n, tp, pins, sel, env, ev, cb, ctx, ci, busy, -, rfl, ⟨rfl, rfl⟩ | ⟨a, b, rfl, rfl⟩⟩ := f.same
  all_goals exact ⟨rfl, rfl, rfl, rfl, rfl, rfl, rfl, rfl, rfl, rfl, id, fun _ => id⟩

theorem TableFrame.inv {s t : State} (f : TableFrame s t) (h : Inv s) (hk : s.cfg.csDisp < s.cfg.nCs)
    (hsel : s.sel = none) : Inv t :=
  ⟨f.busInv h.bus hk hsel, f.sessionSame.sessionInv h.session, f.idle h.idle, f.rxbuf ▸ h.memory⟩

end Sys2Proof.Machine
end

section
/-! PROOFS. The machine's invariant through `SEND`, `DISP_INIT` and every other instruction: reset establishes it, every step
keeps it, and R49's five clauses follow from it. -/

namespace Sys2Proof.Machine

/-! ### Sequencer operations: brackets on a free bus, and the writes between them -/

/-- The bus keeps its invariants and is free for the display's next bracket. -/
structure FreeBus (s : State) : Prop where
  bus : BusInv s
  display : s.cfg.csDisp < s.cfg.nCs
  free : s.sel = none

theorem TableFrame.freeBus {s t : State} (f : TableFrame s t) (h : FreeBus s) : FreeBus t :=
  ⟨f.busInv h.bus h.display h.free, by rw [f.opFrame.cfg]; exact h.display, f.free h.free⟩

theorem BusSame.freeBus {s t : State} (f : BusSame s t) (h : FreeBus s) : FreeBus t :=
  ⟨f.busInv h.bus, by rw [f.cfg]; exact h.display, f.sel.trans h.free⟩

theorem State.setDc_busSame (s : State) (v : Bool) (mode : DcMode) : BusSame s (s.setDc v mode) :=
  ⟨rfl, rfl, rfl, rfl, rfl, rfl, rfl, id⟩

/-! ### SEND -/

/-- `SEND` goes into data mode and comes back to the command mode it began in (R176, R178). -/
theorem SessionSame.through_dataMode {s t : State} {v : Bool} (f : SessionSame (s.setDc v .data) t)
    (hmode : s.session.dcMode = .cmd) (hdc : s.pins.dc.lat = .level s.cfg.dcCmd) :
    SessionSame s (t.setDc t.cfg.dcCmd .cmd) where
  cfg := f.cfg
  rail := f.rail
  resetLine := f.resetLine
  dcMode := hmode.symm
  phase := f.phase
  dispReady := f.dispReady
  dc := by
    have hdir : t.pins.dc.dir = s.pins.dc.dir := by rw [f.dc]; rfl
    have hcfg : t.cfg = s.cfg := f.cfg
    simp [State.setDc, Pins.put, Pins.get, hdir, hcfg, ← hdc]
  res := f.res
  pwrGnd := f.pwrGnd
  pwrHv := f.pwrHv
  busReady := f.busReady
  csReady := f.csReady

theorem SessionSame.setWin (s : State) (w : Option Window) :
    SessionSame s { s with session := { s.session with win := w } } :=
  ⟨rfl, rfl, rfl, rfl, rfl, rfl, rfl, rfl, rfl, rfl, id, fun _ => id⟩

theorem State.send_inv {s : State} (x y : Byte) (pix : List Byte) (h : Inv s) (hk : s.cfg.csDisp < s.cfg.nCs)
    (hready : s.dispReady = true) (hsel : s.sel = none) : Inv (s.send x y pix) := by
  obtain ⟨-, -, hmode, -⟩ := h.session.on (h.session.ready.1 hready)
  obtain ⟨u, win, v, hu, hv, he⟩ := s.send_frames x y pix
  rw [he]
  have window : SessionSame s { u with session := { u.session with win := win } } := hu.sessionSame.trans (.setWin u win)
  have data : FreeBus (State.setDc { u with session := { u.session with win := win } } u.cfg.dcData .data) :=
    BusSame.freeBus (s := u) ⟨rfl, rfl, rfl, rfl, rfl, rfl, rfl, id⟩ (hu.freeBus ⟨h.bus, hk, hsel⟩)
  constructor
  case bus => exact (v.setDc_busSame _ _).busInv (hv.freeBus data).bus
  case session =>
    have back := hv.sessionSame.through_dataMode (window.dcMode.trans hmode)
      (by rw [window.dc, window.cfg]; exact h.session.dcCmd.1 hmode)
    exact (window.trans back).sessionInv h.session
  case idle => exact hv.idle (hu.idle h.idle)
  case memory => exact (congrArg Memory.wf (hv.rxbuf.trans hu.rxbuf)).trans h.memory

/-! ### DISP_INIT -/

/-- The panel as `DISP_INIT` leaves it (R172): rails on, out of reset, in command mode, display on. -/
structure PanelOn (s : State) : Prop where
  rail : s.session.rail = .full
  resetLine : s.session.resetLine = .released
  dcMode : s.session.dcMode = .cmd
  phase : s.session.phase = .on
  dispReady : s.dispReady = true
  dc : s.pins.dc = { dir := .output, lat := .level s.cfg.dcCmd }
  res : s.pins.res = { dir := .output, lat := .level (!s.cfg.resActive) }
  pwrHv : s.pins.pwrHv = { dir := .output, lat := .level s.cfg.hvOn }
  pwrGnd : s.cfg.hasPwrGnd = true → s.pins.pwrGnd = { dir := .output, lat := .level s.cfg.gndOn }
  busReady : s.busReady = true
  csReady : s.isCsReady s.cfg.csDisp = true

theorem PanelOn.sessionInv {s : State} (p : PanelOn s) : SessionInv s where
  dcCmd := by simp [p.dcMode, p.dc]
  dcData := by simp [p.dcMode, p.dc]
  resetAsserted := by simp [p.resetLine, p.res]
  resetReleased := by simp [p.resetLine, p.res]
  railGnd := by simp [p.rail]
  railFull := fun _ => ⟨by rw [p.pwrHv], fun hg => by rw [p.pwrGnd hg]⟩
  railNotOff := by simp [p.rail]
  ready := by simp [p.dispReady, p.phase]
  on := fun _ => ⟨p.rail, p.resetLine, p.dcMode, by rw [p.dc], by rw [p.res], by rw [p.pwrHv],
    fun hg => by rw [p.pwrGnd hg], p.busReady, p.csReady⟩

theorem State.dispInit_panelOn {s t : State} (hk : s.cfg.csDisp < s.csReady.length) (h : s.dispInit = some t) :
    PanelOn t := by
  have frame := State.dispInit_opFrame h
  obtain ⟨u, v, hu, hv, rfl⟩ := State.dispInit_frames h
  have table := hu.sessionSame
  rw [State.bringUp, State.dispSteps_eq] at table
  have last := hv.sessionSame
  constructor
  case rail => exact last.rail
  case resetLine => exact last.resetLine.trans table.resetLine
  case dcMode => exact last.dcMode.trans table.dcMode
  case phase => rfl
  case dispReady => rfl
  case busReady => exact last.busReady (table.busReady rfl)
  all_goals rw [frame.cfg]
  case dc => exact last.dc.trans table.dc
  case res => exact last.res.trans table.res
  case pwrHv =>
    refine last.pwrHv.trans ?_
    simp [State.dispStep8, State.delay, Pins.put, Pins.get, table.pwrHv, table.cfg]
  case pwrGnd =>
    intro hg
    exact (last.pwrGnd.trans table.pwrGnd).trans (if_pos hg)
  case csReady =>
    exact last.csReady _ (table.csReady _ ((isCsReady_of_cs_set rfl hk _).trans (if_pos rfl)))

theorem State.bringUp_busy (s : State) : s.bringUp.busy = s.busy := by rw [State.bringUp, State.dispSteps_eq]

theorem State.bringUp_rxbuf (s : State) : s.bringUp.rxbuf = s.rxbuf := by rw [State.bringUp, State.dispSteps_eq]

theorem State.bringUp_freeBus {s : State} (h : FreeBus s) : FreeBus s.bringUp :=
  have parked := State.bringUp_parked h.bus h.display h.free
  ⟨parked.busInv (.inl h.free) h.bus, by rw [parked.cfg]; exact h.display, parked.free⟩

theorem State.dispInit_inv {s t : State} (h : Inv s) (hk : s.cfg.csDisp < s.cfg.nCs) (hsel : s.sel = none)
    (ht : s.dispInit = some t) : Inv t := by
  have panel := State.dispInit_panelOn (h.bus.shaped.ready ▸ hk) ht
  obtain ⟨u, v, hu, hv, rfl⟩ := State.dispInit_frames ht
  constructor
  case bus =>
    have table : FreeBus u := hu.freeBus (State.bringUp_freeBus ⟨h.bus, hk, hsel⟩)
    have last : FreeBus v := hv.freeBus (BusSame.freeBus (s := u) ⟨rfl, rfl, rfl, rfl, rfl, rfl, rfl, id⟩ table)
    exact BusSame.busInv (s := v) ⟨rfl, rfl, rfl, rfl, rfl, rfl, rfl, id⟩ last.bus
  case session => exact panel.sessionInv
  case idle => exact hv.idle (hu.idle (s.bringUp_busy.trans h.idle))
  case memory =>
    exact (congrArg Memory.wf (hv.rxbuf.trans (hu.rxbuf.trans s.bringUp_rxbuf))).trans h.memory

/-! ### What a passed check says -/

theorem badCs_eq_false_iff {s : State} {k : Nat} : s.badCs k = false ↔ k < s.cfg.nCs := by
  simp [State.badCs]

theorem busHeld_eq_false_iff {s : State} : s.busHeld = false ↔ s.sel = none := by
  simp [State.busHeld]

theorem busInitVerdict_go {s : State} (e : busInitVerdict s = .go) : s.sel = none := by
  rw [busInitVerdict, firstFailing_go_iff] at e
  simpa [busHeld_eq_false_iff] using e

theorem csInitVerdict_go {s : State} {k : Nat} (e : csInitVerdict k s = .go) : k < s.cfg.nCs ∧ s.sel = none := by
  rw [csInitVerdict, firstFailing_go_iff] at e
  simpa [badCs_eq_false_iff, busHeld_eq_false_iff] using e

theorem csAssertVerdict_go {s : State} {k : Nat} (e : csAssertVerdict k s = .go) :
    k < s.cfg.nCs ∧ (s.busReady = true ∧ s.isCsReady k = true) ∧ s.sel = none := by
  rw [csAssertVerdict, firstFailing_go_iff] at e
  simpa [badCs_eq_false_iff, busHeld_eq_false_iff] using e

theorem csReleaseVerdict_go {s : State} {k : Nat} (e : csReleaseVerdict k s = .go) : k < s.cfg.nCs ∧ s.sel = some k := by
  rw [csReleaseVerdict, firstFailing_go_iff] at e
  simpa [badCs_eq_false_iff] using e

theorem execTableVerdict_go {table : List Byte} {s : State} (e : execTableVerdict table s = .go) : s.sel = none := by
  have e := (Verdict.beforeHold_go e).1
  rw [firstFailing_go_iff] at e
  exact busHeld_eq_false_iff.1 (e (s.busHeld, .busHeld) (by simp))

theorem dispInitVerdict_go {s : State} (e : dispInitVerdict s = .go) : s.sel = none := by
  have e := (Verdict.beforeHold_go e).1
  rw [firstFailing_go_iff] at e
  exact busHeld_eq_false_iff.1 (e (s.busHeld, .busHeld) (by simp))

theorem sendVerdict_go {s : State} (e : sendVerdict s = .go) : s.dispReady = true ∧ s.sel = none := by
  have e := (Verdict.beforeHold_go e).1
  rw [firstFailing_go_iff] at e
  simpa [busHeld_eq_false_iff] using e

/-! ### Every instruction and every step -/

/-- The invariant speaks of no field that two such states differ in. -/
theorem Inv.congr {s t : State} (h : Inv s) (bus : BusSame s t) (session : SessionSame s t) (busy : t.busy = s.busy)
    (memory : Memory.wf t.rxbuf = true) : Inv t :=
  ⟨bus.busInv h.bus, session.sessionInv h.session, busy.trans h.idle, memory⟩

theorem Inv.recorded {s : State} (h : Inv s) (code : Nat) : Inv (recorded s code) :=
  h.congr ⟨rfl, rfl, rfl, rfl, rfl, rfl, rfl, id⟩ ⟨rfl, rfl, rfl, rfl, rfl, rfl, rfl, rfl, rfl, rfl, id, fun _ => id⟩ rfl
    h.memory

theorem Inv.setProgram {s : State} (h : Inv s) (rest : List Input) : Inv { s with program := rest } :=
  h.congr ⟨rfl, rfl, rfl, rfl, rfl, rfl, rfl, id⟩ ⟨rfl, rfl, rfl, rfl, rfl, rfl, rfl, rfl, rfl, rfl, id, fun _ => id⟩ rfl
    h.memory

theorem State.busInit_sessionSame (s : State) : SessionSame s s.busInit := by
  have f := s.busInit_opFrame
  constructor
  case cfg => exact f.cfg
  case busReady => exact f.busReady
  case csReady => exact f.csReady
  all_goals cases hm : s.cfg.hasMiso <;> simp [State.busInit, Pins.put, hm]

theorem State.busInit_inv {s : State} (h : Inv s) (hsel : s.sel = none) : Inv s.busInit := by
  refine h.congr (State.busInit_busSame h.bus hsel) s.busInit_sessionSame ?_ ?_
  · cases hm : s.cfg.hasMiso <;> simp [State.busInit, hm]
  · cases hm : s.cfg.hasMiso <;> simp [State.busInit, hm, h.memory]

theorem State.csInit_inv {s : State} {k : Nat} (h : Inv s) (hk : k < s.cfg.nCs) (hsel : s.sel = none) :
    Inv (s.csInit k) where
  bus := (State.csInit_parked h.bus hk hsel).busInv (.inl hsel) h.bus
  session :=
    have f := s.csInit_opFrame k
    SessionSame.sessionInv (s := s) ⟨rfl, rfl, rfl, rfl, rfl, rfl, rfl, rfl, rfl, rfl, f.busReady, f.csReady⟩ h.session
  idle := h.idle
  memory := h.memory

theorem State.csAssert_sessionSame (s : State) (k : Nat) : SessionSame s (s.csAssert k) := by
  rw [State.csAssert_eq]
  exact ⟨rfl, rfl, rfl, rfl, rfl, rfl, rfl, rfl, rfl, rfl, id, fun _ => id⟩

theorem State.csRelease_sessionSame (s : State) (k : Nat) : SessionSame s (s.csRelease k) := by
  rw [State.csRelease_eq]
  exact ⟨rfl, rfl, rfl, rfl, rfl, rfl, rfl, rfl, rfl, rfl, id, fun _ => id⟩

theorem State.csAssert_inv {s : State} {k : Nat} (h : Inv s) (hk : k < s.cfg.nCs) (hbus : s.busReady = true)
    (hready : s.isCsReady k = true) (hsel : s.sel = none) : Inv (s.csAssert k) :=
  ⟨State.csAssert_busInv h.bus hk hbus hready hsel, (s.csAssert_sessionSame k).sessionInv h.session,
    by rw [State.csAssert_eq]; exact h.idle, by rw [State.csAssert_eq]; exact h.memory⟩

theorem State.csRelease_inv {s : State} {k : Nat} (h : Inv s) (hk : k < s.cfg.nCs) (hsel : s.sel = some k) :
    Inv (s.csRelease k) :=
  ⟨State.csRelease_busInv h.bus hk hsel, (s.csRelease_sessionSame k).sessionInv h.session,
    by rw [State.csRelease_eq]; exact h.idle, by rw [State.csRelease_eq]; exact h.memory⟩

/-- An instruction that passes its checks keeps the invariant. -/
theorem bodyOf_inv {i : Instr} {s t : State} (h : Inv s) (hk : s.cfg.csDisp < s.cfg.nCs) (hv : verdictOf i s = .go)
    (hb : bodyOf i s = some t) : Inv t := by
  have records {u : State} (f : TableFrame s u) (hg : bracketVerdict s = .go) : Inv u := by
    obtain ⟨-, -, -, hsel, -⟩ := bracketVerdict_go hg
    exact f.inv h hk hsel
  cases i with
  | execTable table => exact (State.execTable_tframe hb).inv h hk (execTableVerdict_go hv)
  | dispInit => exact State.dispInit_inv h hk (dispInitVerdict_go hv) hb
  | busInit => cases hb; exact State.busInit_inv h (busInitVerdict_go hv)
  | csInit k =>
    cases hb
    obtain ⟨hk, hsel⟩ := csInitVerdict_go hv
    exact State.csInit_inv h hk hsel
  | csAssert k =>
    cases hb
    obtain ⟨hk, ⟨hbus, hready⟩, hsel⟩ := csAssertVerdict_go hv
    exact State.csAssert_inv h hk hbus hready hsel
  | csRelease k =>
    cases hb
    obtain ⟨hk, hsel⟩ := csReleaseVerdict_go hv
    exact State.csRelease_inv h hk hsel
  | write buf => cases hb; exact (s.transfer_issued _).inv h
  | read txByte n => cases hb; exact (s.transfer_issued _).inv h
  | send x y pix =>
    cases hb
    obtain ⟨hready, hsel⟩ := sendVerdict_go hv
    exact State.send_inv x y pix h hk hready hsel
  | xferStart tr cb ctx => cases hb; exact (s.startTransfer_issued tr cb ctx (needsAsync_go hv).2).inv h
  | xferWait => cases hb; exact h
  | xferBlocking tr => cases hb; exact (s.blockingTransfer_issued tr (needsAsync_go hv).2).inv h
  | invalid code => cases hb; exact h
  | regwr reg vals => cases hb; exact records (s.regwr_tframe reg vals) hv
  | endMark => cases hb; exact h
  | cmd reg vals => cases hb; exact records (s.bracket_tframe _) hv
  | colAddr first last => cases hb; exact records (s.bracket_tframe _) hv
  | rowAddr first last => cases hb; exact records (s.bracket_tframe _) hv
  | pixData pix => cases hb; exact records (s.bracket_tframe _) hv
  | byte b => cases hb; exact (s.shiftByte_issued b).inv h

theorem exec_inv {i : Instr} {s t : State} (h : Inv s) (hk : s.cfg.csDisp < s.cfg.nCs) (he : exec i s = .next t) :
    Inv t := by
  rcases exec_next_cases he with rfl | ⟨hv, hb⟩ | ⟨c, rfl⟩
  · exact h
  · exact bodyOf_inv h hk hv hb
  · exact h.recorded c.code

/-! ### Reset -/

/-- No line is driven and no latch written after reset (R53). -/
theorem State.afterReset_pin (cfg : Config) (l : Line) : (State.afterReset cfg).pin l = { dir := .input, lat := .never } := by
  cases l with
  | cs k => simp only [State.pin, Pins.get, State.afterReset]; grind
  | _ => rfl

theorem State.afterReset_isCsReady (cfg : Config) (k : Nat) : (State.afterReset cfg).isCsReady k = false := by
  simp only [State.isCsReady, State.afterReset]
  grind

theorem State.afterReset_inv (cfg : Config) : Inv (State.afterReset cfg) where
  bus := {
    shaped := ⟨List.length_replicate, List.length_replicate⟩
    released := fun _ => ⟨rfl, rfl⟩
    selected := nofun
    low := by simp [State.afterReset_pin]
    idleHigh := by simp [State.afterReset_isCsReady]
    csDriven := by simp [State.afterReset_isCsReady]
    misoInput := rfl }
  session := by constructor <;> simp [State.afterReset]
  idle := rfl
  memory := rfl

/-- Whatever R53 leaves unspecified holds (R284 a). -/
theorem AfterReset.inv {s : State} (h : AfterReset s) : Inv s := by
  rw [h.table]
  exact (State.afterReset_inv s.cfg).congr ⟨rfl, rfl, rfl, rfl, rfl, rfl, rfl, id⟩
    ⟨rfl, rfl, rfl, rfl, rfl, rfl, rfl, rfl, rfl, rfl, id, fun _ => id⟩ rfl h.memory

theorem State.applyReset_inv {s : State} (h : Memory.wf s.rxbuf = true) : Inv s.applyReset :=
  (State.afterReset_inv s.cfg).congr ⟨rfl, rfl, rfl, rfl, rfl, rfl, rfl, id⟩
    ⟨rfl, rfl, rfl, rfl, rfl, rfl, rfl, rfl, rfl, rfl, id, fun _ => id⟩ rfl h

/-! ### The statements -/

theorem configAccepted_csDisp {cfg : Config} (h : configAccepted cfg = true) : cfg.csDisp < cfg.nCs := by
  simp only [configAccepted, Bool.and_eq_true, decide_eq_true_eq] at h
  exact h.1.2

/-- Settles O45: a step waits, resets, or runs an instruction, and each keeps the invariant. -/
theorem stepKeepsTheInvariant : Obligations.StepKeepsTheInvariant := by
  intro s t h hstep
  obtain ⟨hc, rfl | ⟨rest, -, rfl⟩ | ⟨i, rest, he⟩⟩ := step_next_cases hstep
  · exact h
  · exact State.applyReset_inv h.memory
  · exact exec_inv (h.setProgram rest) (configAccepted_csDisp hc) he

/-- Settles O46: a line at its asserted level is the selected one. -/
theorem busRuleFollows : Obligations.BusRuleFollows := by
  intro s h
  constructor
  case released => exact h.released
  case csDriven => exact h.csDriven
  case misoInput => exact h.misoInput
  case selected =>
    intro k hk
    obtain ⟨hsck, hmosi, hlow, -, -⟩ := h.selected k hk
    refine ⟨hsck, hmosi, hlow, fun j hj hready => h.idleHigh j hready ?_⟩
    rw [hk]
    exact fun e => hj (Option.some.inj e).symm
  case oneLow =>
    intro j k hj hk
    exact Option.some.inj ((h.low j hj).symm.trans (h.low k hk))

theorem Reachable.inv {s : State} (h : Reachable s) : Inv s := by
  induction h with
  | start s h => exact h.inv
  | step s t _ hstep ih => exact stepKeepsTheInvariant s t ih hstep

theorem Reachable.config {s : State} (h : Reachable s) : s.cfg.wf = true := by
  induction h with
  | start s h => exact h.config
  | step s t _ hstep ih => rw [step_cfg hstep]; exact ih

/-- Settles O47, by induction on the run with O45 as its step. -/
theorem runsMeetTheInvariant : Obligations.RunsMeetTheInvariant :=
  ⟨fun s h => ⟨h.inv, busRuleFollows s h.inv.bus, h.config⟩, fun _ h => h.reachable.inv.bus.released h.free⟩

/-- Settles O44: nothing is driven or ready after reset, and what R53 leaves unspecified is no part of the invariant. -/
theorem resetMeetsTheInvariant : Obligations.ResetMeetsTheInvariant :=
  ⟨State.afterReset_inv, fun _ h => h.inv⟩

/-- Settles O1: the table of R53, line by line and flag by flag. -/
theorem resetGivesTheTable : Obligations.ResetGivesTheTable :=
  fun cfg => ⟨State.afterReset_pin cfg, rfl, State.afterReset_isCsReady cfg, rfl, rfl, rfl, rfl, rfl, rfl, rfl,
    List.length_replicate, List.length_replicate, rfl, rfl⟩

theorem fetch_of_op {s : State} {e : Encoded} {i : Instr} {rest : List Input} (hp : s.program = .op e :: rest)
    (hd : decode s.cfg e = .ok i) : s.fetch = .run i rest := by
  simp [State.fetch, hp, hd]

/-- Settles O58, by what is fetched. -/
theorem stepRunsTheDecodedInstruction : Obligations.StepRunsTheDecodedInstruction := by
  intro s hc
  refine ⟨fun e i rest hp hd hh => ?_, fun e i rest hp hd hh => ?_, fun hp => ?_⟩
  · simp [step, hc, fetch_of_op hp hd, hh]
  · simp [step, hc, fetch_of_op hp hd, hh]
  · simp [step, hc, State.fetch, hp]

end Sys2Proof.Machine
end

section
/-! PROOFS. What memory and the other followers keep: only a `READ` stores to the receive buffer (20_memory.md R63), and an
operation leaves every chip-select line it does not name alone (R78). -/

namespace Sys2Proof.Machine

/-! ### The receive buffer -/

theorem State.completeTransfer_rxbuf (s : State) : s.completeTransfer.rxbuf = s.rxbuf := by
  unfold State.completeTransfer State.invokeCallback
  split <;> rfl

theorem State.startTransfer_write_rxbuf (s : State) (buf : List Byte) (cb : Option Callback) (ctx : Context) :
    (s.startTransfer (.write buf) cb ctx).rxbuf = s.rxbuf :=
  (State.completeTransfer_rxbuf _).trans (State.writeBytes_rxbuf _ 0 buf)

theorem State.busInit_rxbuf (s : State) : s.busInit.rxbuf = s.rxbuf := by
  cases hm : s.cfg.hasMiso <;> simp [State.busInit, hm]

theorem State.send_rxbuf (s : State) (x y : Byte) (pix : List Byte) : (s.send x y pix).rxbuf = s.rxbuf := by
  obtain ⟨u, win, v, hu, hv, he⟩ := s.send_frames x y pix
  rw [he]
  exact hv.rxbuf.trans hu.rxbuf

theorem State.dispInit_rxbuf {s t : State} (h : s.dispInit = some t) : t.rxbuf = s.rxbuf := by
  obtain ⟨u, v, hu, hv, rfl⟩ := State.dispInit_frames h
  exact hv.rxbuf.trans (hu.rxbuf.trans s.bringUp_rxbuf)

/-- An instruction that reads nothing stores nothing. -/
theorem bodyOf_rxbuf {i : Instr} {s t : State} (hb : bodyOf i s = some t) (hr : ∀ txByte n, i ≠ .read txByte n)
    (hs : ∀ txByte n cb ctx, i ≠ .xferStart (.read txByte n) cb ctx)
    (hx : ∀ txByte n, i ≠ .xferBlocking (.read txByte n)) : t.rxbuf = s.rxbuf := by
  cases i with
  | execTable table => exact (State.execTable_tframe hb).rxbuf
  | dispInit => exact State.dispInit_rxbuf hb
  | read txByte n => exact absurd rfl (hr txByte n)
  | busInit => cases hb; exact s.busInit_rxbuf
  | csInit k => cases hb; rfl
  | csAssert k => cases hb; rw [State.csAssert_eq]
  | csRelease k => cases hb; rw [State.csRelease_eq]
  | write buf => cases hb; exact s.transfer_write_rxbuf buf
  | send x y pix => cases hb; exact s.send_rxbuf x y pix
  | xferStart tr cb ctx =>
    cases hb
    cases tr with
    | write buf => exact s.startTransfer_write_rxbuf buf cb ctx
    | read txByte n => exact absurd rfl (hs txByte n cb ctx)
  | xferWait => cases hb; rfl
  | xferBlocking tr =>
    cases hb
    cases tr with
    | write buf => exact State.startTransfer_write_rxbuf _ buf _ _
    | read txByte n => exact absurd rfl (hx txByte n)
  | invalid code => cases hb; rfl
  | regwr reg vals => cases hb; exact (s.regwr_tframe reg vals).rxbuf
  | endMark => cases hb; rfl
  | cmd reg vals => cases hb; exact (s.bracket_tframe _).rxbuf
  | colAddr first last => cases hb; exact (s.bracket_tframe _).rxbuf
  | rowAddr first last => cases hb; exact (s.bracket_tframe _).rxbuf
  | pixData pix => cases hb; exact (s.bracket_tframe _).rxbuf
  | byte b => cases hb; exact s.shiftByte_rxbuf b

/-- Settles O54: doing nothing and recording a fault leave the buffer alone, and so does the body of every instruction but
a `READ`. -/
theorem onlyReadsStore : Obligations.OnlyReadsStore := by
  intro i s t h hr hs hx
  have hbuf : t.rxbuf = s.rxbuf := by
    rcases exec_next_cases h with rfl | ⟨-, hb⟩ | ⟨c, rfl⟩
    · rfl
    · exact bodyOf_rxbuf hb hr hs hx
    · rfl
  exact ⟨hbuf, fun a => by rw [hbuf]⟩

/-! ### A chip-select line that is left alone -/

/-- From `s` to `t` line `j` keeps its pin and its ready flag, and every new event is off it (R78). -/
structure LineKept (j : Nat) (s t : State) : Prop where
  pin : t.pin (.cs j) = s.pin (.cs j)
  ready : t.isCsReady j = s.isCsReady j
  trace : ∃ ev, t.trace = s.trace ++ ev ∧ ∀ e ∈ ev, e.onLine (.cs j) = false

theorem LineKept.refl (j : Nat) (s : State) : LineKept j s s := ⟨rfl, rfl, [], by simp, by simp⟩

theorem LineKept.trans {j : Nat} {s t u : State} (a : LineKept j s t) (b : LineKept j t u) : LineKept j s u := by
  obtain ⟨ev, ha, hev⟩ := a.trace
  obtain ⟨ev', hb, hev'⟩ := b.trace
  refine ⟨b.pin.trans a.pin, b.ready.trans a.ready, ev ++ ev', by rw [hb, ha, List.append_assoc], ?_⟩
  intro e he
  rcases List.mem_append.1 he with he | he
  · exact hev e he
  · exact hev' e he

/-- No chip-select line and no ready flag is written. -/
theorem lineKept_of_same_cs {j : Nat} {s t : State} {ev : List Event} (hcs : t.pins.cs = s.pins.cs)
    (hready : t.csReady = s.csReady) (htrace : t.trace = s.trace ++ ev) (hev : ∀ e ∈ ev, e.onLine (.cs j) = false) :
    LineKept j s t :=
  ⟨by simp only [State.pin, Pins.get, hcs], by simp only [State.isCsReady, hready], ev, htrace, hev⟩

/-- One other chip-select line, and its ready flag or none, is written. -/
theorem lineKept_of_other_cs {j k : Nat} {s t : State} {q : Pin} {ev : List Event} (hj : j ≠ k)
    (hcs : t.pins.cs = s.pins.cs.set k q) (hready : t.csReady = s.csReady ∨ t.csReady = s.csReady.set k true)
    (htrace : t.trace = s.trace ++ ev) (hev : ∀ e ∈ ev, e.onLine (.cs j) = false) : LineKept j s t where
  pin := by simp [State.pin, Pins.get, hcs, hj.symm]
  ready := by rcases hready with h | h <;> simp [State.isCsReady, h, hj.symm]
  trace := ⟨ev, htrace, hev⟩

theorem Event.onLine_cs_of_ofTransfer {e : Event} (j : Nat) (h : Event.ofTransfer e = true) :
    e.onLine (.cs j) = false := by
  unfold Event.ofTransfer at h
  split at h
  case h_6 => cases h
  all_goals rfl

theorem Event.onLine_cs_of_ofBracket {j k : Nat} {e : Event} (hj : j ≠ k) (h : Event.ofBracket k e) :
    e.onLine (.cs j) = false := by
  rcases h with h | rfl | rfl | rfl | rfl | ⟨v, rfl⟩ | ⟨c, rfl⟩
  · exact Event.onLine_cs_of_ofTransfer j h
  all_goals simp [Event.onLine, hj.symm]

/-- A transfer writes and reads no chip-select line (R128). -/
theorem IssuedFrame.lineKept {s t : State} (f : IssuedFrame s t) (j : Nat) : LineKept j s t := by
  have same := f.busSame
  obtain ⟨tx, rx, bc, n, buf, env, rxbuf, ev, cb, ctx, ci, busy, hev, rfl⟩ := f.same
  refine lineKept_of_same_cs same.cs same.csReady rfl fun e he => ?_
  rcases hev e he with h | ⟨c, rfl⟩
  · exact Event.onLine_cs_of_ofTransfer j h
  · rfl

/-- Brackets are on the display's line only (R161). -/
theorem TableFrame.lineKept {s t : State} {j : Nat} (f : TableFrame s t) (hj : j ≠ s.cfg.csDisp) : LineKept j s t := by
  obtain ⟨tx, rx, bc, n, tp, pins, sel, env, ev, cb, ctx, ci, busy, hev, rfl, hpins⟩ := f.same
  have off : ∀ e ∈ ev, e.onLine (.cs j) = false := fun e he => Event.onLine_cs_of_ofBracket hj (hev e he)
  rcases hpins with ⟨rfl, -⟩ | ⟨a, b, rfl, -⟩
  · exact lineKept_of_same_cs rfl rfl rfl off
  · exact lineKept_of_other_cs hj rfl (.inl rfl) rfl off

/-! ### The bodies -/

theorem State.busInit_lineKept (s : State) (j : Nat) : LineKept j s s.busInit := by
  refine lineKept_of_same_cs
    (ev := [.dirIn .sck, .dirIn .mosi] ++ if s.cfg.hasMiso then [.dirIn .miso] else []) ?_ ?_ ?_ ?_ <;>
    cases hm : s.cfg.hasMiso <;> simp [State.busInit, Pins.put, hm, Event.onLine]

theorem State.csInit_lineKept (s : State) {j k : Nat} (hj : j ≠ k) : LineKept j s (s.csInit k) :=
  lineKept_of_other_cs (ev := [.set (.cs k) (!s.cfg.csActive), .dirOut (.cs k)]) hj (List.set_set _) (.inr rfl)
    (by simp [State.csInit]) (by simp [Event.onLine, hj.symm])

theorem State.csAssert_lineKept (s : State) {j k : Nat} (hj : j ≠ k) : LineKept j s (s.csAssert k) := by
  rw [State.csAssert_eq]
  exact lineKept_of_other_cs hj rfl (.inl rfl) rfl (by simp [assertEvents, Event.onLine, hj.symm])

theorem State.csRelease_lineKept (s : State) {j k : Nat} (hj : j ≠ k) : LineKept j s (s.csRelease k) := by
  rw [State.csRelease_eq]
  exact lineKept_of_other_cs hj rfl (.inl rfl) rfl (by simp [releaseEvents, Event.onLine, hj.symm])

theorem State.send_lineKept (s : State) (x y : Byte) (pix : List Byte) {j : Nat} (hj : j ≠ s.cfg.csDisp) :
    LineKept j s (s.send x y pix) := by
  obtain ⟨u, win, v, hu, hv, he⟩ := s.send_frames x y pix
  rw [he]
  have hdata : LineKept j u (State.setDc { u with session := { u.session with win := win } } u.cfg.dcData .data) :=
    lineKept_of_same_cs rfl rfl rfl (by simp [Event.onLine])
  have hcmd : LineKept j v (v.setDc v.cfg.dcCmd .cmd) := lineKept_of_same_cs rfl rfl rfl (by simp [Event.onLine])
  have hju : j ≠ u.cfg.csDisp := by rwa [hu.opFrame.cfg]
  exact (hu.lineKept hj).trans <| hdata.trans <| (hv.lineKept hju).trans hcmd

theorem bringUpEvents_off_otherLine {cfg : Config} {j : Nat} (hj : j ≠ cfg.csDisp) :
    ∀ e ∈ bringUpEvents cfg, e.onLine (.cs j) = false := by
  cases hm : cfg.hasMiso <;> cases hg : cfg.hasPwrGnd <;> simp [bringUpEvents, hm, hg, Event.onLine, hj.symm]

theorem State.bringUp_lineKept (s : State) {j : Nat} (hj : j ≠ s.cfg.csDisp) : LineKept j s s.bringUp := by
  rw [State.bringUp, State.dispSteps_eq]
  exact lineKept_of_other_cs hj rfl (.inr rfl) rfl (bringUpEvents_off_otherLine hj)

theorem State.dispInit_lineKept {s t : State} {j : Nat} (hj : j ≠ s.cfg.csDisp) (h : s.dispInit = some t) :
    LineKept j s t := by
  obtain ⟨u, v, hu, hv, rfl⟩ := State.dispInit_frames h
  have hb : j ≠ s.bringUp.cfg.csDisp := by rwa [s.bringUp_opFrame.cfg]
  have hju : j ≠ u.cfg.csDisp := by rwa [hu.opFrame.cfg]
  have hrail : LineKept j u
      (State.dispStep8 { u with session := { u.session with phase := .configured, win := none } }) :=
    lineKept_of_same_cs (ev := [.set .pwrHv u.cfg.hvOn, .delay u.cfg.tHvSettle]) rfl rfl (by simp [State.dispStep8])
      (by simp [Event.onLine])
  have hon : LineKept j v
      (State.setDispReady { v.delay v.cfg.tDisponSettle with session := { v.session with phase := .on } }) :=
    lineKept_of_same_cs rfl rfl rfl (by simp [Event.onLine])
  exact (s.bringUp_lineKept hj).trans <| (hu.lineKept hb).trans <| hrail.trans <| (hv.lineKept hju).trans hon

/-- An instruction that names another line, or none, leaves line `j` alone. -/
theorem bodyOf_lineKept {i : Instr} {s t : State} {j : Nat} (hv : verdictOf i s = .go) (hb : bodyOf i s = some t)
    (hj : j ≠ s.cfg.csDisp) (hinit : i ≠ .csInit j) (hassert : i ≠ .csAssert j) (hrelease : i ≠ .csRelease j) :
    LineKept j s t := by
  cases i with
  | execTable table => exact (State.execTable_tframe hb).lineKept hj
  | dispInit => exact State.dispInit_lineKept hj hb
  | busInit => cases hb; exact s.busInit_lineKept j
  | csInit k => cases hb; exact s.csInit_lineKept fun e => hinit (by rw [e])
  | csAssert k => cases hb; exact s.csAssert_lineKept fun e => hassert (by rw [e])
  | csRelease k => cases hb; exact s.csRelease_lineKept fun e => hrelease (by rw [e])
  | write buf => cases hb; exact (s.transfer_issued _).lineKept j
  | read txByte n => cases hb; exact (s.transfer_issued _).lineKept j
  | send x y pix => cases hb; exact s.send_lineKept x y pix hj
  | xferStart tr cb ctx => cases hb; exact (s.startTransfer_issued tr cb ctx (needsAsync_go hv).2).lineKept j
  | xferWait => cases hb; exact .refl j s
  | xferBlocking tr => cases hb; exact (s.blockingTransfer_issued tr (needsAsync_go hv).2).lineKept j
  | invalid code => cases hb; exact .refl j s
  | regwr reg vals => cases hb; exact (s.regwr_tframe reg vals).lineKept hj
  | endMark => cases hb; exact .refl j s
  | cmd reg vals => cases hb; exact (s.bracket_tframe _).lineKept hj
  | colAddr first last => cases hb; exact (s.bracket_tframe _).lineKept hj
  | rowAddr first last => cases hb; exact (s.bracket_tframe _).lineKept hj
  | pixData pix => cases hb; exact (s.bracket_tframe _).lineKept hj
  | byte b => cases hb; exact (s.shiftByte_issued b).lineKept j

theorem exec_lineKept {i : Instr} {s t : State} {j : Nat} (h : exec i s = .next t) (hj : j ≠ s.cfg.csDisp)
    (hinit : i ≠ .csInit j) (hassert : i ≠ .csAssert j) (hrelease : i ≠ .csRelease j) : LineKept j s t := by
  rcases exec_next_cases h with rfl | ⟨hv, hb⟩ | ⟨c, rfl⟩
  · exact .refl j _
  · exact bodyOf_lineKept hv hb hj hinit hassert hrelease
  · exact ⟨rfl, rfl, [], by simp [recorded], by simp⟩

/-- Settles O31: every instruction keeps the lines it does not name. -/
theorem otherFollowersAreLeftAlone : Obligations.OtherFollowersAreLeftAlone := by
  intro i s t j h hj hinit hassert hrelease
  obtain ⟨hpin, hready, ev, ht, hev⟩ := exec_lineKept h hj hinit hassert hrelease
  refine ⟨hpin, hready, ?_⟩
  rwa [appended, ht, List.drop_left]

end Sys2Proof.Machine
end

section
/-! PROOFS. The clock edges of a `WRITE` (20_memory.md R76): its bytes are a string of bit times, and each bit time brings the
clock low and then high. -/

namespace Sys2Proof.Machine

/-! ### A WRITE that may begin -/

theorem TransferReady.blockingVerdict_write {s : State} (h : TransferReady s) (buf : List Byte) :
    blockingVerdict (.write buf) s = .go := by
  have held : s.busHeld = true := Option.isSome_iff_ne_none.2 h.bracket
  simp [blockingVerdict, transferVerdict, h.idle, h.busReady, held]

/-- `WRITE` in closed form (R130, R206). -/
theorem TransferReady.exec_write {s : State} (h : TransferReady s) (buf : List Byte) :
    exec (.write buf) s = .next (afterIssued s (.write buf)) :=
  calc exec (.write buf) s
    _ = operate .go (fun s => s.transfer (.write buf)) s := by rw [← h.blockingVerdict_write buf]; rfl
    _ = .next (s.transfer (.write buf)) := operate_go _ s h.clear
    _ = .next (afterIssued s (.write buf)) := by rw [State.transfer_eq s _ h.miso]

theorem appended_afterIssued_write (s : State) (buf : List Byte) :
    appended s (afterIssued s (.write buf)) = bytesEvents s.cfg buf s.env := by
  rw [appended, afterIssued_trace, List.drop_left]

/-- After the bits of a byte the clock is high (R76). -/
theorem Pins.written_sck_high (p : Pins) {buf : List Byte} (h : buf ≠ []) : (p.written buf).sck.lat = .level true := by
  rw [Pins.written, List.getLast?_eq_some_getLast h]
  rfl

/-! ### Bytes as bit times -/

theorem bitsEvents_append (cfg : Config) {bs as : List Bool} (bs' as' : List Bool) (h : as.length = bs.length) :
    bitsEvents cfg (bs ++ bs') (as ++ as') = bitsEvents cfg bs as ++ bitsEvents cfg bs' as' := by
  induction bs generalizing as with
  | nil => obtain rfl := List.length_eq_zero_iff.1 h; rfl
  | cons b bs ih =>
    cases as with
    | nil => cases h
    | cons a as => simp [bitsEvents, ih (Nat.succ.inj h)]

/-- The events of a byte string are one bit time for each of its bits, most significant bit of each byte first (R65, R67). -/
theorem bytesEvents_eq_bitsEvents (cfg : Config) (buf : List Byte) (e : Env) :
    ∃ as, as.length = (buf.flatMap byteBits).length ∧ bytesEvents cfg buf e = bitsEvents cfg (buf.flatMap byteBits) as := by
  induction buf generalizing e with
  | nil => exact ⟨[], rfl, rfl⟩
  | cons b rest ih =>
    obtain ⟨as, hlen, has⟩ := ih (e.after (samplesPerByte cfg))
    have h8 : (e.take 8).length = (byteBits b).length := Env.take_length 8 e
    refine ⟨e.take 8 ++ as, by simp [hlen, h8], ?_⟩
    rw [List.flatMap_cons, bitsEvents_append cfg _ _ h8, ← has]
    rfl

theorem length_flatMap_byteBits (buf : List Byte) : (buf.flatMap byteBits).length = 8 * buf.length := by
  induction buf with
  | nil => rfl
  | cons b rest ih => simp [ih, byteBits]; omega

/-! ### Clock edges -/

/-- A bit time has one rising edge, and a falling one unless the clock is low already (R76). -/
theorem clockEdges_bitEvents (cfg : Config) (v b a : Bool) (rest : List Event) :
    clockEdges { dir := .output, lat := .level v } (bitEvents cfg b a ++ rest) =
      ((clockEdges { dir := .output, lat := .level true } rest).1 + 1,
        (clockEdges { dir := .output, lat := .level true } rest).2 + if v then 1 else 0) := by
  cases hm : cfg.hasMiso <;> simp [bitEvents, hm, clockEdges]

/-- Only the first bit time of a string can find the clock low. -/
theorem clockEdges_bitsEvents (cfg : Config) (v : Bool) {bs as : List Bool} (h : as.length = bs.length) :
    clockEdges { dir := .output, lat := .level v } (bitsEvents cfg bs as) =
      (bs.length, if v then bs.length else bs.length - 1) := by
  induction bs generalizing v as with
  | nil => simp [bitsEvents, clockEdges]
  | cons b bs ih =>
    cases as with
    | nil => cases h
    | cons a as =>
      rw [bitsEvents, clockEdges_bitEvents, ih true (Nat.succ.inj h)]
      cases v <;> rfl

theorem clockEdges_bytesEvents (cfg : Config) (v : Bool) (buf : List Byte) (e : Env) :
    clockEdges { dir := .output, lat := .level v } (bytesEvents cfg buf e) =
      (8 * buf.length, if v then 8 * buf.length else 8 * buf.length - 1) := by
  obtain ⟨as, hlen, has⟩ := bytesEvents_eq_bitsEvents cfg buf e
  rw [has, clockEdges_bitsEvents cfg v hlen, length_flatMap_byteBits]

/-- Settles O15, by the bit times of the bytes from a low and from a high clock. -/
theorem writeClockEdges : Obligations.WriteClockEdges := by
  intro s buf h hdir
  have edges {v : Bool} (hlat : s.pins.sck.lat = .level v) :
      clockEdges s.pins.sck (appended s (afterIssued s (.write buf))) =
        (8 * buf.length, if v then 8 * buf.length else 8 * buf.length - 1) := by
    have hp : s.pins.sck = { dir := .output, lat := .level v } := by rw [← hdir, ← hlat]
    rw [hp, appended_afterIssued_write, clockEdges_bytesEvents]
  refine ⟨_, h.exec_write buf, fun hne => ?_, edges, edges⟩
  rw [afterIssued_pins]
  exact s.pins.written_sck_high hne

end Sys2Proof.Machine
end

section
/-! PROOFS. What the decoder reads (30_encoding.md): a record byte for byte, a table as records and a sentinel, a code of no
operation as `INVALID`, and every well-formed instruction from its own spelling. -/

namespace Sys2Proof

open Sys2Proof.Machine

/-! ### Records and their length bytes -/

/-- A length byte before as many bytes as it counts makes a record's bytes (R92). -/
theorem recordBytes_of_length {len : Byte} {wire : List Byte} (h : wire.length = len.toNat) :
    recordBytes wire = len :: wire := by
  simp [recordBytes, h]

/-- The bytes a length byte other than the sentinel counts are a legal record (R92, R94). -/
theorem legalRecord_of_length {len : Byte} {wire : List Byte} (hne : len ≠ 0) (h : wire.length = len.toNat) :
    legalRecord wire :=
  ⟨h ▸ BitVec.toNat_pos_of_ne_zero hne, h ▸ Nat.le_of_lt_succ len.isLt⟩

/-- Settles O56, along the branches of the decoder. -/
theorem recordsAreReadExactly : Obligations.RecordsAreReadExactly := by
  intro bytes rest i h
  fun_cases decodeRecord bytes with
  | case1 => cases h
  | case2 more =>
    cases h
    exact .inl ⟨rfl, rfl⟩
  | case3 len hne =>
    rw [decodeRecord, if_neg hne] at h
    cases h
  | case4 len hne reg more hshort =>
    simp only [decodeRecord, hne, hshort, if_true, if_false] at h
    cases h
  | case5 len hne reg more hlong =>
    simp only [decodeRecord, hne, hlong, if_false] at h
    cases h
    have hlen : (reg :: more.take (len.toNat - 1)).length = len.toNat := by
      have := BitVec.toNat_pos_of_ne_zero hne
      rw [List.length_cons, List.length_take]
      omega
    refine .inr ⟨reg, more.take (len.toNat - 1), rfl, ?_, ?_⟩
    · exact Nat.le_of_succ_le_succ (legalRecord_of_length hne hlen).2
    · rw [recordBytes_of_length hlen]
      simp

/-! ### The table check -/

/-- The bytes still to be passed are passed unread. -/
theorem sentinelAhead_append (passed rest : List Byte) :
    sentinelAhead passed.length (passed ++ rest) = sentinelAhead 0 rest := by
  induction passed with
  | nil => rfl
  | cons b passed ih => exact ih

/-- A length byte other than the sentinel has as many bytes passed as it counts (R95). -/
theorem tableWellFormed_cons {len : Byte} (h : len ≠ 0) (rest : List Byte) :
    tableWellFormed (len :: rest) = sentinelAhead len.toNat rest := by
  rw [tableWellFormed, sentinelAhead, beq_eq_false_iff_ne.mpr h, Bool.false_or]

/-- A legal record is passed whole (R95). -/
theorem tableWellFormed_recordBytes_append {wire : List Byte} (h : legalRecord wire) (rest : List Byte) :
    tableWellFormed (recordBytes wire ++ rest) = tableWellFormed rest := by
  obtain ⟨h1, h255⟩ := h
  have hlen : (BitVec.ofNat 8 wire.length).toNat = wire.length := by
    rw [BitVec.toNat_ofNat]; omega
  have hne : BitVec.ofNat 8 wire.length ≠ 0 := by bv_omega
  rw [recordBytes, List.cons_append, tableWellFormed_cons hne, hlen, sentinelAhead_append]
  rfl

theorem tableWellFormed_records {records : List (List Byte)} (h : ∀ wire ∈ records, legalRecord wire) (tail : List Byte) :
    tableWellFormed (records.flatMap recordBytes ++ 0 :: tail) = true := by
  induction records with
  | nil => rfl
  | cons wire records ih =>
    obtain ⟨hwire, hrecords⟩ := List.forall_mem_cons.mp h
    rw [List.flatMap_cons, List.append_assoc, tableWellFormed_recordBytes_append hwire, ih hrecords]

/-- A sentinel is reached from inside a record only over the bytes of the record still to be passed, then over legal records. -/
theorem exists_records_of_sentinelAhead {skip : Nat} {table : List Byte} (h : sentinelAhead skip table = true) :
    ∃ (passed : List Byte) (records : List (List Byte)) (tail : List Byte), passed.length = skip ∧
      (∀ wire ∈ records, legalRecord wire) ∧ table = passed ++ (records.flatMap recordBytes ++ 0 :: tail) := by
  fun_induction sentinelAhead skip table with
  | case1 => cases h
  | case2 len rest ih =>
    by_cases h0 : len = 0
    · exact ⟨[], [], rest, rfl, by simp, by simp [h0]⟩
    · obtain ⟨wire, records, tail, hlen, hlegal, rfl⟩ := ih ((tableWellFormed_cons h0 rest).symm.trans h)
      refine ⟨[], wire :: records, tail, rfl, List.forall_mem_cons.mpr ⟨legalRecord_of_length h0 hlen, hlegal⟩, ?_⟩
      simp [recordBytes_of_length hlen]
  | case3 skip b rest ih =>
    obtain ⟨passed, records, tail, hlen, hlegal, rfl⟩ := ih h
    exact ⟨b :: passed, records, tail, congrArg (· + 1) hlen, hlegal, rfl⟩

/-- Settles O20, by the recursion of the check from inside any record. -/
theorem wellFormedTablesAreRecordsAndSentinel : Obligations.WellFormedTablesAreRecordsAndSentinel := by
  intro table
  constructor
  · intro h
    obtain ⟨passed, records, tail, hpassed, hlegal, rfl⟩ := exists_records_of_sentinelAhead h
    rw [List.length_eq_zero_iff.mp hpassed]
    exact ⟨records, tail, hlegal, rfl⟩
  · rintro ⟨records, tail, hlegal, rfl⟩
    exact tableWellFormed_records hlegal tail

/-! ### Operation codes -/

/-- Each code `decodeHostOp` knows is an assigned one (R102, R104). -/
theorem decodeHostOp_of_unassigned {cfg : Config} {code : Byte} (h : assignedCode cfg code = false) (args : Operands) :
    decodeHostOp cfg.hasAsync code args = .invalid code := by
  unfold decodeHostOp
  split
  case h_13 => rfl
  all_goals simp_all [assignedCode]

/-- Without ASYNC the operations of ASYNC are no operations (R104). -/
theorem needsAsync_of_no_async {s : State} (h : s.cfg.hasAsync = false) (v : Verdict) : needsAsync v s = .raise .badOp := by
  simp [needsAsync, h]

/-- Settles O41: `INVALID` and, without ASYNC, `XFER_*` raise their cause before any body. -/
theorem badOperationCodes : Obligations.BadOperationCodes := by
  refine ⟨fun s _ hf => operate_raise .badOp (fun s => s) s hf, fun cfg code args h => ?_, fun cfg code args => ⟨_, rfl⟩,
    fun s t cb ctx hf ha => ?_⟩
  · exact congrArg Except.ok (decodeHostOp_of_unassigned h args)
  · have refused (v : Verdict) (body : State → State) : operate (needsAsync v s) body s = .next (recorded s 9) := by
      rw [needsAsync_of_no_async ha]
      exact operate_raise .badOp body s hf
    exact ⟨refused (blockingVerdict t s) fun s => s.startTransfer t cb ctx, refused (Verdict.go.afterHold s.inFlight) id,
      refused (blockingVerdict t s) fun s => s.blockingTransfer t⟩

/-! ### Decoding a spelling -/

@[simp] theorem getElem_zero_shiftIn (r : Byte) (s : Bool) : (shiftIn r s)[0] = s := by
  simp [shiftIn]

@[simp] theorem getElem_succ_shiftIn (r : Byte) (s : Bool) {i : Nat} (h : i + 1 < 8) :
    (shiftIn r s)[i + 1] = r[i] := by
  simp [shiftIn]

/-- The bits of a byte, shifted in as they cross the wire, make up the byte (R65, R101). -/
theorem bitsToByte_byteBits (b : Byte) : bitsToByte (byteBits b) = b := by
  ext i hi
  interval_cases i <;> simp [bitsToByte, byteBits, bitOf]

/-- A command that is no window command goes by its bytes (R98, R99). -/
theorem decodeCommand_of_no_window {cfg : Config} {reg : Byte} {vals : List Byte}
    (h : vals.length = 2 → reg ≠ cfg.colAddrReg ∧ reg ≠ cfg.rowAddrReg) :
    decodeCommand cfg (reg :: vals) = .ok (.cmd reg vals) := by
  unfold decodeCommand
  split
  case h_1 heq => cases heq
  case h_2 heq =>
    cases heq
    obtain ⟨hcol, hrow⟩ := h rfl
    rw [if_neg hcol, if_neg hrow]
  case h_3 heq =>
    cases heq
    rfl

/-- At the level of commands the bytes are a command (R100). -/
theorem decode_wire_dcCmd {cfg : Config} (h : cfg.dcCmd ≠ cfg.dcData) (bytes : List Byte) :
    decode cfg (.wire cfg.dcCmd bytes) = decodeCommand cfg bytes := by
  simp [decode, h]

/-- Settles O55, row by row. -/
theorem decodeEncode : Obligations.DecodeEncode := by
  intro cfg i h
  cases i with
  | busInit => rfl
  | csInit k => rfl
  | csAssert k => rfl
  | csRelease k => rfl
  | write buf => rfl
  | read txByte n => rfl
  | execTable table => rfl
  | dispInit => rfl
  | send x y pix => rfl
  | endMark => rfl
  | xferStart t cb ctx => exact congrArg Except.ok (if_pos h)
  | xferWait => exact congrArg Except.ok (if_pos h)
  | xferBlocking t => exact congrArg Except.ok (if_pos h)
  | invalid code =>
    have hu : assignedCode cfg code = false := by simpa [Instr.wf] using h
    exact congrArg Except.ok (decodeHostOp_of_unassigned hu _)
  | regwr reg vals =>
    have hlen : vals.length ≤ 254 := by simpa [Instr.wf] using h
    have hread := decodeRecord_recordBytes reg vals [] hlen
    rw [List.append_nil] at hread
    have henc : encode cfg (.regwr reg vals) = .record (recordBytes (reg :: vals)) := rfl
    simp [henc, decode, hread]
  | cmd reg vals =>
    obtain ⟨hdc, hwin⟩ : cfg.dcCmd ≠ cfg.dcData ∧ (vals.length = 2 → reg ≠ cfg.colAddrReg ∧ reg ≠ cfg.rowAddrReg) := by
      simpa [Instr.wf, imp_iff_not_or] using h
    exact (decode_wire_dcCmd hdc _).trans (decodeCommand_of_no_window hwin)
  | colAddr first last =>
    have hdc : cfg.dcCmd ≠ cfg.dcData := by simpa [Instr.wf] using h
    exact (decode_wire_dcCmd hdc _).trans (by simp [colAddrBytes, decodeCommand])
  | rowAddr first last =>
    obtain ⟨hdc, hreg⟩ : cfg.dcCmd ≠ cfg.dcData ∧ cfg.rowAddrReg ≠ cfg.colAddrReg := by simpa [Instr.wf] using h
    exact (decode_wire_dcCmd hdc _).trans (by simp [rowAddrBytes, decodeCommand, hreg])
  | pixData pix => simp [decode, encode]
  | byte b => exact congrArg (fun v => Except.ok (Instr.byte v)) (bitsToByte_byteBits b)

/-- A bare word laid out as an instruction is spelled decodes to it. -/
theorem decodeTableWord_of_encode {nbits w : Nat} {i : Instr} (hwf : i.wf Config.default = true)
    (h : encodedOfTableWord nbits w = encode Config.default i) : decodeTableWord nbits w = some i := by
  simp [decodeTableWord, h, decodeEncode Config.default i hwf]

/-- Settles O57: each is the spelling of what it stands for. -/
theorem sampleEncodings : Obligations.SampleEncodings :=
  ⟨decodeTableWord_of_encode rfl rfl, decodeTableWord_of_encode rfl rfl, decodeTableWord_of_encode rfl rfl,
    decodeTableWord_of_encode rfl rfl, decodeTableWord_of_encode rfl rfl, decodeTableWord_of_encode rfl rfl,
    decodeTableWord_of_encode rfl rfl, decodeTableWord_of_encode rfl rfl,
    decodeEncode Config.default (.regwr 0x15 [10, 95]) rfl, decodeEncode Config.default (.byte 0xA5) rfl⟩

end Sys2Proof
end

section
/-! PROOFS. The bus and chip-select operations with their checks (40_transport.md R122 to R126), the empty bracket (R127) and
the hand-over of the bus (R134). -/

namespace Sys2Proof.Machine

/-! ### An instruction by the answer of its checks -/

theorem exec_of_go {i : Instr} {s t : State} (hf : s.fault = false) (hv : verdictOf i s = .go)
    (hb : bodyOf i s = some t) : exec i s = .next t := by
  simp [exec_eq, operateTable, hf, hv, hb]

theorem exec_of_raise {i : Instr} {s : State} {c : Cause} (hf : s.fault = false) (hv : verdictOf i s = .raise c) :
    exec i s = .next (recorded s c.code) := by
  simp [exec_eq, operateTable, hf, hv, State.raise, recorded]

theorem badCs_eq_true_iff {s : State} {k : Nat} : s.badCs k = true ↔ s.cfg.nCs ≤ k := by
  simp [State.badCs]

theorem busHeld_eq_true_iff {s : State} : s.busHeld = true ↔ s.sel ≠ none := by
  rw [State.busHeld, Option.isSome_iff_ne_none]

/-! ### The lines a bus operation writes -/

/-- A write of clock, data-out and one chip-select keeps every other line. -/
theorem pin_of_bus_written {s t : State} {k : Nat} {a b q : Pin} {l : Line}
    (ht : t.pins = { s.pins with sck := a, mosi := b, cs := s.pins.cs.set k q })
    (hsck : l ≠ .sck) (hmosi : l ≠ .mosi) (hcs : l ≠ .cs k) : t.pin l = s.pin l := by
  cases l with
  | sck => exact absurd rfl hsck
  | mosi => exact absurd rfl hmosi
  | cs j =>
    have hj : k ≠ j := fun e => hcs (by rw [e])
    simp [State.pin, Pins.get, ht, hj]
  | miso | dc | res | pwrGnd | pwrHv => simp only [State.pin, Pins.get, ht]

/-- `BUS_INIT` (R122). -/
theorem State.busInit_eq (s : State) :
    s.busInit =
      { s with
        pins := { s.pins with
          sck := { s.pins.sck with dir := .input }
          mosi := { s.pins.mosi with dir := .input }
          miso := if s.cfg.hasMiso then { s.pins.miso with dir := .input } else s.pins.miso }
        busReady := true
        trace := s.trace ++ ([.dirIn .sck, .dirIn .mosi] ++ if s.cfg.hasMiso then [.dirIn .miso] else []) } := by
  cases hm : s.cfg.hasMiso <;>
    simp [State.busInit, hm, State.pinInput, State.emit, State.setBusReady, Pins.put, Pins.get]

/-- `CS_INIT k` of a line that exists (R123). -/
theorem State.csInit_eq (s : State) {k : Nat} (hk : k < s.pins.cs.length) :
    s.csInit k =
      { s with
        pins := { s.pins with cs := s.pins.cs.set k { dir := .output, lat := .level (!s.cfg.csActive) } }
        csReady := s.csReady.set k true
        trace := s.trace ++ [.set (.cs k) (!s.cfg.csActive), .dirOut (.cs k)] } := by
  simp [State.csInit, State.pinSet, State.pinOutput, State.emit, State.setCsReady, Pins.put, Pins.get, hk]

/-- Settles O3: the closed form of the body, or the held bus. -/
theorem busInitResult : Obligations.BusInitResult := by
  intro s hf
  constructor
  · intro hsel
    rw [← State.busInit_eq]
    exact exec_of_go hf (by simp [verdictOf, busInitVerdict, busHeld_eq_false_iff.2 hsel]) rfl
  · intro hsel
    exact exec_of_raise (c := .busHeld) hf (by simp [verdictOf, busInitVerdict, busHeld_eq_true_iff.2 hsel])

/-- Settles O4: the closed form of the body, and the first check that fails. -/
theorem csInitResult : Obligations.CsInitResult := by
  intro s k hf hs
  refine ⟨fun hk hsel => ⟨s.csInit k, ?_, ?_⟩, fun hk => ?_, fun hk hsel => ?_⟩
  · exact exec_of_go hf
      (by simp [verdictOf, csInitVerdict, badCs_eq_false_iff.2 hk, busHeld_eq_false_iff.2 hsel]) rfl
  · have hp : k < s.pins.cs.length := hs.pins ▸ hk
    rw [State.csInit_eq s hp]
    generalize ht : ({ s with pins := _, csReady := _, trace := _ } : State) = t
    have hpin := pin_of_cs_set (s := s) (t := t) (by subst ht; rfl) hp
    have hready := isCsReady_of_cs_set (s := s) (t := t) (by subst ht; rfl) (hs.ready ▸ hk)
    refine ⟨by subst ht; rfl, by simp [hpin], fun l hl => ?_, by simp [hready], fun j hj => by simp [hready, hj], ?_⟩
    · cases l with
      | sck | mosi => subst ht; rfl
      | _ => exact pin_of_bus_written (by subst ht; rfl) nofun nofun hl
    · subst ht
      exact ⟨List.length_set.trans hs.pins, List.length_set.trans hs.ready⟩
  · exact exec_of_raise (c := .badCs) hf (by simp [verdictOf, csInitVerdict, badCs_eq_true_iff.2 hk])
  · exact exec_of_raise (c := .busHeld) hf
      (by simp [verdictOf, csInitVerdict, badCs_eq_false_iff.2 hk, busHeld_eq_true_iff.2 hsel])

/-! ### Opening and closing a bracket -/

section
variable (s : State) (k : Nat)

@[simp] theorem State.csAssert_cfg : (s.csAssert k).cfg = s.cfg := by rw [State.csAssert_eq]
@[simp] theorem State.csAssert_fault : (s.csAssert k).fault = s.fault := by rw [State.csAssert_eq]
@[simp] theorem State.csAssert_csReady : (s.csAssert k).csReady = s.csReady := by rw [State.csAssert_eq]
@[simp] theorem State.csAssert_sel : (s.csAssert k).sel = some k := by rw [State.csAssert_eq]
@[simp] theorem State.csRelease_cfg : (s.csRelease k).cfg = s.cfg := by rw [State.csRelease_eq]
@[simp] theorem State.csRelease_fault : (s.csRelease k).fault = s.fault := by rw [State.csRelease_eq]
@[simp] theorem State.csRelease_busReady : (s.csRelease k).busReady = s.busReady := by rw [State.csRelease_eq]
@[simp] theorem State.csRelease_csReady : (s.csRelease k).csReady = s.csReady := by rw [State.csRelease_eq]
@[simp] theorem State.csRelease_sel : (s.csRelease k).sel = none := by rw [State.csRelease_eq]

end

/-- `CS_ASSERT k` with its checks passed (R124). -/
theorem exec_csAssert {s : State} {k : Nat} (hf : s.fault = false) (hk : k < s.cfg.nCs) (hbus : s.busReady = true)
    (hready : s.isCsReady k = true) (hsel : s.sel = none) : exec (.csAssert k) s = .next (s.csAssert k) :=
  exec_of_go hf
    (by simp [verdictOf, csAssertVerdict, badCs_eq_false_iff.2 hk, busHeld_eq_false_iff.2 hsel, hbus, hready]) rfl

/-- `CS_ASSERT k` on a held bus (R124). -/
theorem exec_csAssert_of_held {s : State} {k : Nat} (hf : s.fault = false) (hk : k < s.cfg.nCs)
    (hbus : s.busReady = true) (hready : s.isCsReady k = true) (hsel : s.sel ≠ none) :
    exec (.csAssert k) s = .next (recorded s 3) :=
  exec_of_raise (c := .busHeld) hf
    (by simp [verdictOf, csAssertVerdict, badCs_eq_false_iff.2 hk, busHeld_eq_true_iff.2 hsel, hbus, hready])

/-- `CS_RELEASE k` of the open bracket (R126). -/
theorem exec_csRelease {s : State} {k : Nat} (hf : s.fault = false) (hk : k < s.cfg.nCs) (hsel : s.sel = some k) :
    exec (.csRelease k) s = .next (s.csRelease k) :=
  exec_of_go hf (by simp [verdictOf, csReleaseVerdict, badCs_eq_false_iff.2 hk, hsel]) rfl

/-- Settles O5: the closed form of the body, and the first check that fails. -/
theorem csAssertResult : Obligations.CsAssertResult := by
  intro s k hf hs
  refine ⟨fun hk hbus hready hsel => ⟨_, exec_csAssert hf hk hbus hready hsel, ?_⟩, fun hk => ?_, fun hk hnot => ?_,
    fun hk hbus hready hsel => exec_csAssert_of_held hf hk hbus hready hsel⟩
  · rw [State.csAssert_eq]
    refine ⟨rfl, rfl, rfl, ?_, fun l h1 h2 h3 => pin_of_bus_written rfl h1 h2 h3,
      ⟨List.length_set.trans hs.pins, hs.ready⟩⟩
    exact (pin_of_cs_set rfl (hs.pins ▸ hk) k).trans (if_pos rfl)
  · exact exec_of_raise (c := .badCs) hf (by simp [verdictOf, csAssertVerdict, badCs_eq_true_iff.2 hk])
  · have hcheck : (!s.busReady || !s.isCsReady k) = true := by simpa using hnot
    exact exec_of_raise (c := .notInit) hf (by simp [verdictOf, csAssertVerdict, badCs_eq_false_iff.2 hk, hcheck])

/-- Settles O6: the closed form of the body, and the first check that fails. -/
theorem csReleaseResult : Obligations.CsReleaseResult := by
  intro s k hf hs
  refine ⟨fun hk hsel => ⟨_, exec_csRelease hf hk hsel, ?_⟩, fun hk => ?_, fun hk hsel => ?_⟩
  · rw [State.csRelease_eq]
    refine ⟨rfl, rfl, rfl, ?_, fun l h1 h2 h3 => pin_of_bus_written rfl h1 h2 h3,
      ⟨List.length_set.trans hs.pins, hs.ready⟩⟩
    exact (pin_of_cs_set rfl (hs.pins ▸ hk) k).trans (if_pos rfl)
  · exact exec_of_raise (c := .badCs) hf (by simp [verdictOf, csReleaseVerdict, badCs_eq_true_iff.2 hk])
  · exact exec_of_raise (c := .badRelease) hf
      (by simp [verdictOf, csReleaseVerdict, badCs_eq_false_iff.2 hk, hsel])

/-- A bracket opened and closed leaves every chip-select line as it was, if its own stood at the released level (R127). -/
theorem csRelease_csAssert_pin {s : State} {k : Nat} (hk : k < s.pins.cs.length)
    (hidle : (s.pin (.cs k)).lat = .level (!s.cfg.csActive)) (j : Nat) :
    ((s.csAssert k).csRelease k).pin (.cs j) = s.pin (.cs j) := by
  have hcs : ((s.csAssert k).csRelease k).pins.cs =
      s.pins.cs.set k { dir := (s.pin (.cs k)).dir, lat := .level (!s.cfg.csActive) } := by
    rw [State.csRelease_eq, State.csAssert_eq]
    exact Pins.cs_set_twice s.pins.cs k s.cfg.csActive (!s.cfg.csActive)
  rw [pin_of_cs_set hcs hk, ← hidle]
  split
  · next hj => rw [hj]
  · rfl

/-- Settles O7: assertion and release keep the bus invariants, and these say how the released bus stands. -/
theorem emptyBracketReleasesTheBus : Obligations.EmptyBracketReleasesTheBus := by
  intro s k hf h hk hbus hready hsel
  have hclose : exec (.csRelease k) (s.csAssert k) = .next ((s.csAssert k).csRelease k) :=
    exec_csRelease (by simpa using hf) (by simpa using hk) (by simp)
  have hidle := h.idleHigh k hready (by simp [hsel])
  have hpin := csRelease_csAssert_pin (h.shaped.pins ▸ hk) hidle
  obtain ⟨hsck, hmosi⟩ := h.released hsel
  refine ⟨_, _, exec_csAssert hf hk hbus hready hsel, hclose, ?_, ?_, by rw [hpin, hidle], ?_, hpin, ?_⟩ <;>
    rw [State.csRelease_eq, State.csAssert_eq]
  exact ⟨rfl, rfl, hsck.symm, hmosi.symm, rfl, rfl, rfl⟩

theorem lt_of_isCsReady {s : State} {k : Nat} (h : s.isCsReady k = true) : k < s.csReady.length := by
  by_contra hk
  rw [State.isCsReady, List.getD_eq_default _ _ (Nat.le_of_not_lt hk)] at h
  cases h

/-- Settles O8: the release leaves a free bus that meets the invariants, and so the assertion a held one. -/
theorem busIsHandedOver : Obligations.BusIsHandedOver := by
  intro s j k hf h hj hready hjk hsel
  obtain ⟨-, -, -, hreadyk, hbus⟩ := h.selected k hsel
  have hk : k < s.cfg.nCs := h.shaped.ready ▸ lt_of_isCsReady hreadyk
  have released : BusInv (s.csRelease k) := State.csRelease_busInv h hk hsel
  have hfree : (s.csRelease k).sel = none := by simp
  have hjt : j < (s.csRelease k).cfg.nCs := by simpa using hj
  have hbust : (s.csRelease k).busReady = true := by simpa using hbus
  have hreadyt : (s.csRelease k).isCsReady j = true := by simpa [State.isCsReady] using hready
  have asserted : BusInv ((s.csRelease k).csAssert j) := State.csAssert_busInv released hjt hbust hreadyt hfree
  obtain ⟨hsck, hmosi⟩ := released.released hfree
  obtain ⟨-, -, hlow, -, -⟩ := asserted.selected j (by simp)
  have hhigh := asserted.idleHigh k (by simpa [State.isCsReady] using hreadyk) (by simp [hjk])
  exact ⟨exec_csAssert_of_held hf hj hbus hready (by simp [hsel]), _, _, exec_csRelease hf hk hsel, hsck, hmosi,
    exec_csAssert (by simpa using hf) hjt hbust hreadyt hfree, by simp, by simpa using hlow, by simpa using hhigh⟩

end Sys2Proof.Machine
end

section
/-! PROOFS. What `BYTE`, `WRITE` and `READ` put on the lines, into the trace and into the receive buffer (40_transport.md
R128 to R133). -/

namespace Sys2Proof.Machine

/-! ### Bytes -/

/-- Settles O9, by induction on the bits still to be shifted (`State.shiftBits_eq`). -/
theorem shiftByteResult : Obligations.ShiftByteResult :=
  fun s b h => State.shiftByte_eq s b h

/-- Settles O10: both checks pass, and the body is `ShiftByte`. -/
theorem byteResult : Obligations.ByteResult := by
  intro s b hf hbus hsel hmiso
  rw [← State.shiftByte_eq s b hmiso]
  exact exec_of_go hf (by simp [verdictOf, byteVerdict, transferVerdict, hbus, busHeld_eq_true_iff.2 hsel]) rfl

/-! ### The checks of a transfer -/

section
variable {s : State} (hidle : s.inFlight = false)
include hidle

theorem blockingVerdict_of_not_ready (t : Transfer) (hbus : s.busReady = false) :
    blockingVerdict t s = .raise .notInit := by
  cases t <;> simp [blockingVerdict, transferVerdict, hidle, hbus]

theorem blockingVerdict_of_free (t : Transfer) (hbus : s.busReady = true) (hsel : s.sel = none) :
    blockingVerdict t s = .raise .noBracket := by
  cases t <;> simp [blockingVerdict, transferVerdict, hidle, hbus, busHeld_eq_false_iff.2 hsel]

theorem blockingVerdict_read (txByte : Byte) (n : Nat) (hbus : s.busReady = true) (hsel : s.sel ≠ none) :
    blockingVerdict (.read txByte n) s = if s.cfg.hasMiso then .go else .raise .noMiso := by
  cases hm : s.cfg.hasMiso <;>
    simp [blockingVerdict, transferVerdict, hidle, hbus, busHeld_eq_true_iff.2 hsel, hm]

end

/-- Settles O11: the closed form of the transfer, and the first check that fails. -/
theorem writeResult : Obligations.WriteResult := by
  intro s buf
  refine ⟨fun h => ⟨h.exec_write buf, afterIssued_trace s buf⟩, fun hf hidle hbus => ?_,
    fun hf hidle hbus hsel => ?_⟩
  · exact exec_of_raise (c := .notInit) hf (blockingVerdict_of_not_ready hidle _ hbus)
  · exact exec_of_raise (c := .noBracket) hf (blockingVerdict_of_free hidle _ hbus hsel)

/-! ### The receive buffer after a READ -/

theorem Memory.read_writeAll_before (m : Memory) {a j : Nat} (h : a < j) (bs : List Byte) :
    Memory.read (Memory.writeAll m j bs) a = Memory.read m a := by
  induction bs generalizing m j with
  | nil => rfl
  | cons v bs ih => rw [Memory.writeAll, ih _ (by omega), Memory.read_write_other _ _ _ _ (by omega)]

/-- Bytes stored from `j` on stand at `j` on in order, and behind them is what was there. -/
theorem Memory.read_writeAll (m : Memory) (j i : Nat) (bs : List Byte) :
    Memory.read (Memory.writeAll m j bs) (j + i) = bs[i]?.or (Memory.read m (j + i)) := by
  induction bs generalizing m j i with
  | nil => simp [Memory.writeAll]
  | cons v bs ih =>
    rw [Memory.writeAll]
    cases i with
    | zero => simp [Memory.read_writeAll_before, Memory.read_write_same]
    | succ i =>
      have hoffset : j + (i + 1) = j + 1 + i := by omega
      rw [hoffset, ih, Memory.read_write_other _ _ _ _ (by omega), List.getElem?_cons_succ]

theorem getElem?_receivedBytes (cfg : Config) (n j : Nat) (e : Env) :
    (receivedBytes cfg n e)[j]? = if j < n then some (received cfg (e.after (samplesPerByte cfg * j))) else none := by
  induction n generalizing j e with
  | zero => simp [receivedBytes]
  | succ n ih =>
    cases j with
    | zero => simp [receivedBytes, Env.after]
    | succ j => simp [receivedBytes, ih, ← Env.after_add, Nat.mul_succ, Nat.add_comm]

theorem afterIssued_read_rxbuf (s : State) (txByte : Byte) (n : Nat) :
    (afterIssued s (.read txByte n)).rxbuf = Memory.writeAll s.rxbuf 0 (receivedBytes s.cfg n s.env) := by
  unfold afterIssued
  split <;> rfl

/-- Each of the `n` bytes a `READ` receives stands at its offset; later offsets are as before (R131, 20_memory.md R63). -/
theorem read_afterIssued_read (s : State) (txByte : Byte) (n j : Nat) :
    Memory.read (afterIssued s (.read txByte n)).rxbuf j =
      if j < n then some (received s.cfg (s.env.after (samplesPerByte s.cfg * j))) else Memory.read s.rxbuf j := by
  have h := Memory.read_writeAll s.rxbuf 0 j (receivedBytes s.cfg n s.env)
  rw [Nat.zero_add, getElem?_receivedBytes] at h
  rw [afterIssued_read_rxbuf, h]
  split <;> simp

/-! ### The events of a READ -/

theorem afterIssued_read_trace (s : State) (txByte : Byte) (n : Nat) :
    (afterIssued s (.read txByte n)).trace = s.trace ++ readEvents s.cfg txByte 0 n s.env := by
  unfold afterIssued
  split
  · simp [afterBlocking, afterStart, afterTransfer, afterRead, callbackEvents]
  · rfl

/-- An event of a string of bit times is of the bit time of one of its bits. -/
theorem exists_of_mem_bitsEvents {cfg : Config} {bs as : List Bool} {ev : Event} (h : ev ∈ bitsEvents cfg bs as) :
    ∃ b ∈ bs, ∃ a, ev ∈ bitEvents cfg b a := by
  induction bs generalizing as with
  | nil => simp [bitsEvents] at h
  | cons b bs ih =>
    cases as with
    | nil => simp [bitsEvents] at h
    | cons a as =>
      rcases List.mem_append.1 h with h | h
      · exact ⟨b, by simp, a, h⟩
      · obtain ⟨b', hb, a', h⟩ := ih h
        exact ⟨b', by simp [hb], a', h⟩

/-- An event of the clock, of data-out or of data-in, or a delay: no store. -/
def Event.onBus (e : Event) : Bool := e.onLine .sck || e.onLine .mosi || e.onLine .miso || e.isDelay

theorem onBus_of_mem_bitEvents (cfg : Config) (b a : Bool) : ∀ e ∈ bitEvents cfg b a, e.onBus = true := by
  cases hm : cfg.hasMiso <;> simp [bitEvents, hm, Event.onBus, Event.onLine, Event.isDelay]

theorem filter_onBus_byteEvents (cfg : Config) (b : Byte) (env : Env) :
    (byteEvents cfg b env).filter Event.onBus = byteEvents cfg b env := by
  rw [List.filter_eq_self]
  intro e he
  obtain ⟨b', -, a, he⟩ := exists_of_mem_bitsEvents he
  exact onBus_of_mem_bitEvents cfg b' a e he

theorem filter_onBus_readEvents (cfg : Config) (txByte : Byte) (j n : Nat) (e : Env) :
    (readEvents cfg txByte j n e).filter Event.onBus = bytesEvents cfg (List.replicate n txByte) e := by
  induction n generalizing j e with
  | zero => rfl
  | succ n ih =>
    have hstore (v : Byte) : Event.onBus (.store j v) = false := rfl
    simp [readEvents, List.replicate_succ, bytesEvents, filter_onBus_byteEvents, hstore, ih]

/-- `READ` in closed form (R131, R206). -/
theorem TransferReady.exec_read {s : State} (h : TransferReady s) (hm : s.cfg.hasMiso = true) (txByte : Byte) (n : Nat) :
    exec (.read txByte n) s = .next (afterIssued s (.read txByte n)) := by
  rw [← State.transfer_eq s _ h.miso]
  exact exec_of_go h.clear ((blockingVerdict_read h.idle txByte n h.busReady h.bracket).trans (if_pos hm)) rfl

/-- Settles O12: the closed form of the transfer, and the first check that fails. -/
theorem readResult : Obligations.ReadResult := by
  intro s txByte n
  refine ⟨fun h hm => ⟨_, h.exec_read hm txByte n, rfl, fun j hj => ?_, fun j hj => ?_,
      afterIssued_read_trace s txByte n, filter_onBus_readEvents s.cfg txByte 0 n s.env⟩,
    fun hf hidle hbus => ?_, fun hf hidle hbus hsel => ?_, fun hf hidle hbus hsel hm => ?_⟩
  · simp [read_afterIssued_read, hj, received, samplesPerByte, hm]
  · simp [read_afterIssued_read, Nat.not_lt.2 hj]
  · exact exec_of_raise (c := .notInit) hf (blockingVerdict_of_not_ready hidle _ hbus)
  · exact exec_of_raise (c := .noBracket) hf (blockingVerdict_of_free hidle _ hbus hsel)
  · exact exec_of_raise (c := .noMiso) hf ((blockingVerdict_read hidle txByte n hbus hsel).trans (by simp [hm]))

/-! ### A byte echoed, and events counted -/

theorem eq_of_set_mosi_mem_bitEvents {cfg : Config} {v b a : Bool} (h : Event.set .mosi v ∈ bitEvents cfg b a) : v = b := by
  cases hm : cfg.hasMiso <;> simpa [bitEvents, hm] using h

/-- Settles O13: the answers are the bits of the byte, and each bit of the filler is 1. -/
theorem readReconstructsTheByte : Obligations.ReadReconstructsTheByte := by
  intro s b h hm hecho
  refine ⟨_, h.exec_read hm 0xFF 1, ?_, fun v hv => ?_⟩
  · simp [read_afterIssued_read, received, hm, Env.after, hecho, bitsToByte_byteBits]
  · rw [appended, afterIssued_read_trace, List.drop_left] at hv
    have hbyte : Event.set .mosi v ∈ byteEvents s.cfg 0xFF s.env := by simpa [readEvents] using hv
    obtain ⟨b', hb', a, hbit⟩ := exists_of_mem_bitsEvents hbyte
    have ones : ∀ b' ∈ byteBits 0xFF, b' = true := by decide
    rw [eq_of_set_mosi_mem_bitEvents hbit, ones b' hb']

/-- The six events of a bit time, the sample only where there is a data-in line (R101), as a count meets them. -/
theorem countP_bitEvents (cfg : Config) (p : Event → Bool) (b a : Bool) :
    (bitEvents cfg b a).countP p =
      (if p (.set .sck false) then 1 else 0) + (if p (.set .mosi b) then 1 else 0) +
        2 * (if p (.delay cfg.tHalf) then 1 else 0) +
        (if cfg.hasMiso then if p (.get .miso a) then 1 else 0 else 0) + (if p (.set .sck true) then 1 else 0) := by
  cases hm : cfg.hasMiso <;>
    simp only [bitEvents, hm, List.countP_append, List.countP_cons, List.countP_nil] <;>
    grind

theorem countP_bitsEvents {cfg : Config} {p : Event → Bool} {c : Nat} (h : ∀ b a, (bitEvents cfg b a).countP p = c)
    {bs as : List Bool} (hlen : as.length = bs.length) : (bitsEvents cfg bs as).countP p = c * bs.length := by
  induction bs generalizing as with
  | nil => rfl
  | cons b bs ih =>
    cases as with
    | nil => cases hlen
    | cons a as =>
      rw [bitsEvents, List.countP_append, h, ih (Nat.succ.inj hlen), List.length_cons, Nat.mul_succ, Nat.add_comm]

/-- What stands `c` times in every bit time stands `8 c` times for each byte (R133). -/
theorem countP_bytesEvents {cfg : Config} {p : Event → Bool} {c : Nat} (h : ∀ b a, (bitEvents cfg b a).countP p = c)
    (buf : List Byte) (e : Env) : (bytesEvents cfg buf e).countP p = c * (8 * buf.length) := by
  obtain ⟨as, hlen, has⟩ := bytesEvents_eq_bitsEvents cfg buf e
  rw [has, countP_bitsEvents h hlen, length_flatMap_byteBits]

/-- Settles O14: what one bit time appends, eight times for each byte. -/
theorem writeEventCounts : Obligations.WriteEventCounts := by
  intro s buf h
  refine ⟨_, h.exec_write buf, ?_⟩
  rw [appended_afterIssued_write]
  have count {p : Event → Bool} {c m : Nat} (hp : ∀ b a, (bitEvents s.cfg b a).countP p = c)
      (hm : c * (8 * buf.length) = m) : (bytesEvents s.cfg buf s.env).countP p = m :=
    (countP_bytesEvents hp buf s.env).trans hm
  refine ⟨count (c := 1) ?_ (by omega), count (c := 1) ?_ (by omega), count (c := 1) ?_ (by omega),
    count (c := 2) ?_ (by omega), count (c := if s.cfg.hasMiso then 1 else 0) ?_ (by split <;> omega), ?_⟩
  case refine_6 =>
    have hall (b a : Bool) : (bitEvents s.cfg b a).countP (fun _ => true) = if s.cfg.hasMiso then 6 else 5 := by
      rw [countP_bitEvents]
      cases s.cfg.hasMiso <;> rfl
    rw [← List.countP_true]
    exact count (c := if s.cfg.hasMiso then 6 else 5) hall (by split <;> omega)
  all_goals simp [countP_bitEvents, Event.onLine]

end Sys2Proof.Machine
end

section
/-! PROOFS. `SEND` and `DISP_INIT` as their brackets and the writes between them (41_sequencer.md R170, R176), with the
parameters of the one configuration they run under. -/

namespace Sys2Proof.Machine

/-- A write of the session's record (R42 to R48). -/
def State.updateSession (s : State) (f : Session → Session) : State := { s with session := f s.session }

section
variable (s : State) (f : Session → Session)

@[simp] theorem State.updateSession_cfg : (s.updateSession f).cfg = s.cfg := rfl
@[simp] theorem State.updateSession_pins : (s.updateSession f).pins = s.pins := rfl
@[simp] theorem State.updateSession_pin (l : Line) : (s.updateSession f).pin l = s.pin l := rfl
@[simp] theorem State.updateSession_session : (s.updateSession f).session = f s.session := rfl
@[simp] theorem State.updateSession_trace : (s.updateSession f).trace = s.trace := rfl
@[simp] theorem State.updateSession_env : (s.updateSession f).env = s.env := rfl
@[simp] theorem State.updateSession_tp : (s.updateSession f).tp = s.tp := rfl
@[simp] theorem State.updateSession_busReady : (s.updateSession f).busReady = s.busReady := rfl
@[simp] theorem State.updateSession_csReady : (s.updateSession f).csReady = s.csReady := rfl
@[simp] theorem State.updateSession_dispReady : (s.updateSession f).dispReady = s.dispReady := rfl
@[simp] theorem State.updateSession_sel : (s.updateSession f).sel = s.sel := rfl

end

@[simp] theorem State.transfer_cfg (s : State) (t : Transfer) : (s.transfer t).cfg = s.cfg :=
  (s.transfer_issued t).opFrame.cfg

@[simp] theorem State.bracket_cfg (s : State) (bytes : List Byte) : (s.bracket bytes).cfg = s.cfg :=
  (s.bracket_tframe bytes).opFrame.cfg

section
variable (s : State) (v : Bool) (mode : DcMode)

@[simp] theorem State.setDc_cfg : (s.setDc v mode).cfg = s.cfg := rfl
@[simp] theorem State.setDc_pins :
    (s.setDc v mode).pins = { s.pins with dc := { dir := s.pins.dc.dir, lat := .level v } } := rfl
@[simp] theorem State.setDc_pin_cs (k : Nat) : (s.setDc v mode).pin (.cs k) = s.pin (.cs k) := rfl
@[simp] theorem State.setDc_session : (s.setDc v mode).session = { s.session with dcMode := mode } := rfl
@[simp] theorem State.setDc_trace : (s.setDc v mode).trace = s.trace ++ [.set .dc v] := rfl
@[simp] theorem State.setDc_env : (s.setDc v mode).env = s.env := rfl
@[simp] theorem State.setDc_tp : (s.setDc v mode).tp = s.tp := rfl
@[simp] theorem State.setDc_busReady : (s.setDc v mode).busReady = s.busReady := rfl
@[simp] theorem State.setDc_csReady : (s.setDc v mode).csReady = s.csReady := rfl
@[simp] theorem State.setDc_dispReady : (s.setDc v mode).dispReady = s.dispReady := rfl
@[simp] theorem State.setDc_sel : (s.setDc v mode).sel = s.sel := rfl

end

/-- The window brackets of `SEND`, one after the other (R174 to R176). -/
def State.windowBrackets (s : State) (x y : Byte) : State :=
  (s.bracket [s.cfg.colAddrReg, x, s.cfg.colEnd]).bracket [s.cfg.rowAddrReg, y, s.cfg.rowEnd]

/-- `SEND` before its pixels (R176): the window brackets, the window recorded, data mode. -/
def State.sendWindow (s : State) (x y : Byte) : State :=
  ((s.windowBrackets x y).updateSession ({ · with win := some ⟨x, s.cfg.colEnd, y, s.cfg.rowEnd⟩ })).setDc
    s.cfg.dcData .data

/-- `SEND` (R176): the pixels' bracket in data mode, then command mode. -/
theorem State.send_eq (s : State) (x y : Byte) (pix : List Byte) :
    s.send x y pix = ((s.sendWindow x y).bracket pix).setDc s.cfg.dcCmd .cmd := by
  simp [State.send, State.sendWindow, State.windowBrackets, State.colAddr, State.rowAddr, State.pixData, colAddrBytes,
    rowAddrBytes, State.updateSession]

/-- Bring-up steps 8 and 9 (R170), once the configuration table has run: the high-voltage rail, and the display on. -/
def State.lightUp (s : State) : State :=
  (s.updateSession ({ · with phase := .configured, win := none })).dispStep8.dispStep9

/-- The rails turned on before the display-on bracket (R170 step 8). -/
def State.railsOn (s : State) : State :=
  ((s.pinSet .pwrHv s.cfg.hvOn).updateSession ({ · with phase := .configured, win := none, rail := .full })).delay
    s.cfg.tHvSettle

theorem State.lightUp_eq (s : State) :
    s.lightUp =
      State.setDispReady
        (((s.railsOn.bracket s.cfg.disponCmd).delay s.cfg.tDisponSettle).updateSession ({ · with phase := .on })) := by
  have h : s.lightUp =
      let u := s.railsOn.bracket s.railsOn.cfg.disponCmd
      ((u.delay u.cfg.tDisponSettle).updateSession ({ · with phase := .on })).setDispReady := rfl
  have hcfg : s.railsOn.cfg = s.cfg := rfl
  simpa [hcfg] using h

/-- `DISP_INIT` (R172): the configuration table between steps 6 and 8. -/
theorem State.dispInit_eq (s : State) :
    s.dispInit = (s.bringUp.execTable s.cfg.configTable).map State.lightUp := by
  have hcfg : s.bringUp.cfg = s.cfg := s.bringUp_opFrame.cfg
  rw [State.dispInit, State.dispStep7, ← State.bringUp, hcfg]
  cases s.bringUp.execTable s.cfg.configTable <;> rfl

end Sys2Proof.Machine
end

section
/-! PROOFS. Durations do not sequence (41_sequencer.md R173, 70_reset_and_hazards.md R280): forgetting the durations commutes
with every instruction, so two states that differ in durations only run to one state with the durations forgotten. -/

namespace Sys2Proof.Machine

section
variable (s : State)

/-! ### The configuration without its delays -/

@[simp] theorem State.timeless_cfg : s.timeless.cfg = timelessConfig s.cfg := rfl

section
variable (cfg : Config)

@[simp] theorem timelessConfig_hasMiso : (timelessConfig cfg).hasMiso = cfg.hasMiso := rfl
@[simp] theorem timelessConfig_hasAsync : (timelessConfig cfg).hasAsync = cfg.hasAsync := rfl
@[simp] theorem timelessConfig_csDisp : (timelessConfig cfg).csDisp = cfg.csDisp := rfl
@[simp] theorem timelessConfig_csActive : (timelessConfig cfg).csActive = cfg.csActive := rfl
@[simp] theorem timelessConfig_tCsSetup : (timelessConfig cfg).tCsSetup = 0 := rfl

end

/-! ### Lines, trace and receive buffer -/

@[simp] theorem State.timeless_emit (e : Event) : (s.emit e).timeless = s.timeless.emit e.timeless := by
  simp [State.timeless, State.emit]

@[simp] theorem State.timeless_delay (us : Nat) : (s.delay us).timeless = s.timeless.delay 0 := s.timeless_emit _

@[simp] theorem State.timeless_pinOutput (l : Line) : (s.pinOutput l).timeless = s.timeless.pinOutput l :=
  State.timeless_emit _ _

@[simp] theorem State.timeless_pinInput (l : Line) : (s.pinInput l).timeless = s.timeless.pinInput l :=
  State.timeless_emit _ _

@[simp] theorem State.timeless_pinSet (l : Line) (v : Bool) : (s.pinSet l v).timeless = s.timeless.pinSet l v :=
  State.timeless_emit _ _

@[simp] theorem State.timeless_pinGet (l : Line) : (s.pinGet l).timeless = s.timeless.pinGet l :=
  State.timeless_emit _ _

@[simp] theorem State.timeless_storeRx (j : Nat) (v : Byte) : (s.storeRx j v).timeless = s.timeless.storeRx j v :=
  State.timeless_emit _ _

@[simp] theorem State.timeless_setSel (v : Option Nat) : (s.setSel v).timeless = s.timeless.setSel v := rfl

@[simp] theorem State.timeless_setBusReady : s.setBusReady.timeless = s.timeless.setBusReady := rfl

@[simp] theorem State.timeless_setCsReady (k : Nat) : (s.setCsReady k).timeless = s.timeless.setCsReady k := rfl

/-! ### Transfers -/

theorem State.timeless_sampleMiso : s.sampleMiso.timeless = s.timeless.sampleMiso :=
  congrArg (fun u : State => { u with rxsr := shiftIn s.rxsr (s.pinLevel .miso) }) (s.timeless_pinGet .miso)

theorem State.timeless_bitTime (i : Nat) : (s.bitTime i).timeless = s.timeless.bitTime i := by
  cases hm : s.cfg.hasMiso <;> simp [State.bitTime, hm, State.timeless_sampleMiso] <;> rfl

end

theorem State.timeless_shiftBits (s : State) (n : Nat) : (s.shiftBits n).timeless = s.timeless.shiftBits n := by
  induction n generalizing s with
  | zero => rfl
  | succ n ih => rw [State.shiftBits, ih, State.timeless_bitTime, State.shiftBits]

theorem State.timeless_shiftByte (s : State) (b : Byte) : (s.shiftByte b).timeless = s.timeless.shiftByte b :=
  State.timeless_shiftBits _ 8

theorem State.timeless_writeBytes (s : State) (j : Nat) (buf : List Byte) :
    (s.writeBytes j buf).timeless = s.timeless.writeBytes j buf := by
  induction buf generalizing s j with
  | nil => rfl
  | cons b rest ih =>
    rw [State.writeBytes, ih, State.timeless_shiftByte]
    rfl

theorem State.timeless_readByte (s : State) (tx : Byte) (j : Nat) :
    (s.readByte tx j).timeless = s.timeless.readByte tx j := by
  have h := State.timeless_shiftByte { s with bytecnt := j } tx
  exact (State.timeless_storeRx _ j _).trans (congrArg (fun u : State => u.storeRx j u.rxsr) h)

theorem State.timeless_readBytes (s : State) (tx : Byte) (j n : Nat) :
    (s.readBytes tx j n).timeless = s.timeless.readBytes tx j n := by
  induction n generalizing s j with
  | zero => rfl
  | succ n ih => rw [State.readBytes, ih, State.timeless_readByte, State.readBytes]

theorem State.timeless_transferBytes (s : State) (t : Transfer) :
    (s.transferBytes t).timeless = s.timeless.transferBytes t := by
  cases t with
  | write buf => exact s.timeless_writeBytes 0 buf
  | read tx n => exact s.timeless_readBytes tx 0 n

theorem State.timeless_completeTransfer (s : State) : s.completeTransfer.timeless = s.timeless.completeTransfer := by
  cases hcb : s.cb with
  | none => simp [State.completeTransfer, State.invokeCallback, State.timeless, hcb, State.endTransfer]
  | some c => simp [State.completeTransfer, State.invokeCallback, State.timeless, hcb, State.endTransfer, Event.timeless]

theorem State.timeless_startTransfer (s : State) (t : Transfer) (cb : Option Callback) (ctx : Context) :
    (s.startTransfer t cb ctx).timeless = s.timeless.startTransfer t cb ctx := by
  rw [State.startTransfer, State.timeless_completeTransfer, State.timeless_transferBytes]
  rfl

theorem State.timeless_blockingTransfer (s : State) (t : Transfer) :
    (s.blockingTransfer t).timeless = s.timeless.blockingTransfer t :=
  State.timeless_startTransfer _ t none _

theorem State.timeless_transfer (s : State) (t : Transfer) : (s.transfer t).timeless = s.timeless.transfer t := by
  cases ha : s.cfg.hasAsync
  · simp [State.transfer, ha, State.timeless_transferBytes]
  · simp [State.transfer, ha, State.timeless_blockingTransfer]

/-! ### Bus operations and brackets -/

theorem State.timeless_busInit (s : State) : s.busInit.timeless = s.timeless.busInit := by
  cases hm : s.cfg.hasMiso <;> simp [State.busInit, hm]

theorem State.timeless_csInit (s : State) (k : Nat) : (s.csInit k).timeless = s.timeless.csInit k := by
  simp [State.csInit]

theorem State.timeless_csAssert (s : State) (k : Nat) : (s.csAssert k).timeless = s.timeless.csAssert k := by
  simp [State.csAssert]

theorem State.timeless_csRelease (s : State) (k : Nat) : (s.csRelease k).timeless = s.timeless.csRelease k := by
  simp [State.csRelease]

@[simp] theorem State.timeless_bracket (s : State) (bytes : List Byte) :
    (s.bracket bytes).timeless = s.timeless.bracket bytes := by
  simp [State.bracket, State.timeless_csRelease, State.timeless_transfer, State.timeless_csAssert]

/-! ### Tables -/

theorem State.timeless_regwr (s : State) (reg : Byte) (vals : List Byte) :
    (s.regwr reg vals).timeless = s.timeless.regwr reg vals := by
  have h := s.timeless_bracket (reg :: vals)
  simp only [State.regwr, ← h]
  rfl

theorem State.timeless_runTable (s : State) (table : List Byte) (fuel : Nat) :
    s.timeless.runTable table fuel = (s.runTable table fuel).map State.timeless := by
  induction fuel generalizing s with
  | zero => rfl
  | succ fuel ih =>
    have htp : s.timeless.tp = s.tp := rfl
    rw [State.runTable, State.runTable, htp]
    split
    · rw [← State.timeless_regwr, ih]
    · rfl
    · rfl

theorem State.timeless_execTable (s : State) (table : List Byte) :
    s.timeless.execTable table = (s.execTable table).map State.timeless :=
  State.timeless_runTable { s with tp := 0 } table table.length

/-! ### Forgetting durations through SEND and DISP_INIT -/

@[simp] theorem State.timeless_setDc (s : State) (v : Bool) (mode : DcMode) :
    (s.setDc v mode).timeless = s.timeless.setDc v mode :=
  congrArg (fun u : State => { u with session := { s.session with dcMode := mode } }) (s.timeless_pinSet .dc v)

@[simp] theorem State.timeless_updateSession (s : State) (f : Session → Session) :
    (s.updateSession f).timeless = s.timeless.updateSession f := rfl

theorem State.timeless_send (s : State) (x y : Byte) (pix : List Byte) :
    (s.send x y pix).timeless = s.timeless.send x y pix := by
  simp [State.send_eq, State.sendWindow, State.windowBrackets, timelessConfig]

theorem State.timeless_lightUp (s : State) : s.lightUp.timeless = s.timeless.lightUp := by
  have h (u : State) : u.setDispReady.timeless = u.timeless.setDispReady := rfl
  simp [State.lightUp_eq, State.railsOn, timelessConfig, h]

theorem bringUpEvents_timeless (cfg : Config) :
    (bringUpEvents cfg).map Event.timeless = bringUpEvents (timelessConfig cfg) := by
  cases hm : cfg.hasMiso <;> cases hg : cfg.hasPwrGnd <;> simp [bringUpEvents, hm, hg, Event.timeless, timelessConfig]

theorem State.timeless_bringUp (s : State) : s.bringUp.timeless = s.timeless.bringUp := by
  simp only [State.bringUp, State.dispSteps_eq, State.timeless, List.map_append, bringUpEvents_timeless]
  rfl

theorem State.timeless_dispInit (s : State) : s.timeless.dispInit = s.dispInit.map State.timeless := by
  have h : s.timeless.cfg.configTable = s.cfg.configTable := rfl
  have hl : State.timeless ∘ State.lightUp = State.lightUp ∘ State.timeless := funext State.timeless_lightUp
  rw [State.dispInit_eq, State.dispInit_eq, ← State.timeless_bringUp, h, State.timeless_execTable,
    Option.map_map, Option.map_map, hl]

/-! ### Every instruction -/

theorem verdictOf_timeless (i : Instr) (s : State) : verdictOf i s.timeless = verdictOf i s := by
  cases i <;> rfl

theorem bodyOf_timeless (i : Instr) (s : State) : bodyOf i s.timeless = (bodyOf i s).map State.timeless := by
  cases i with
  | execTable table => exact s.timeless_execTable table
  | dispInit => exact s.timeless_dispInit
  | busInit => exact congrArg some s.timeless_busInit.symm
  | csInit k => exact congrArg some (s.timeless_csInit k).symm
  | csAssert k => exact congrArg some (s.timeless_csAssert k).symm
  | csRelease k => exact congrArg some (s.timeless_csRelease k).symm
  | write buf => exact congrArg some (s.timeless_transfer _).symm
  | read txByte n => exact congrArg some (s.timeless_transfer _).symm
  | send x y pix => exact congrArg some (s.timeless_send x y pix).symm
  | xferStart t cb ctx => exact congrArg some (s.timeless_startTransfer t cb ctx).symm
  | xferWait => rfl
  | xferBlocking t => exact congrArg some (s.timeless_blockingTransfer t).symm
  | invalid code => rfl
  | regwr reg vals => exact congrArg some (s.timeless_regwr reg vals).symm
  | endMark => rfl
  | cmd reg vals => exact congrArg some (s.timeless_bracket _).symm
  | colAddr first last => exact congrArg some (s.timeless_bracket _).symm
  | rowAddr first last => exact congrArg some (s.timeless_bracket _).symm
  | pixData pix => exact congrArg some (s.timeless_bracket _).symm
  | byte b => exact congrArg some (s.timeless_shiftByte b).symm

theorem State.timeless_raise (s : State) (c : Cause) : (s.raise c).timeless = s.timeless.raise c := by
  have hf : s.timeless.fault = s.fault := rfl
  unfold State.raise
  rw [hf]
  split <;> rfl

/-- From the state without its durations an instruction ends in the state it ends in, without its durations. -/
theorem exec_timeless {i : Instr} {s t : State} (h : exec i s = .next t) : exec i s.timeless = .next t.timeless := by
  have hf : s.timeless.fault = s.fault := rfl
  rw [exec_eq] at h ⊢
  unfold operateTable at h ⊢
  rw [hf, verdictOf_timeless, bodyOf_timeless]
  split at h
  next hfault => cases h; exact if_pos hfault
  next hclear =>
    rw [if_neg hclear]
    cases hv : verdictOf i s with
    | go => cases hb : bodyOf i s <;> simp only [hv, hb] at h <;> cases h; rfl
    | hold => rw [hv] at h; cases h; rfl
    | raise c => rw [hv] at h; cases h; exact congrArg _ (s.timeless_raise c).symm

theorem pinProjection_timeless (tr : List Event) : pinProjection (tr.map Event.timeless) = pinProjection tr := by
  induction tr with
  | nil => rfl
  | cons e tr ih => cases e <;> simpa [pinProjection, Event.timeless, Event.isDelay] using ih

/-- Settles O26: both runs end where the run with the durations forgotten ends. -/
theorem durationsDoNotSequence : Obligations.DurationsDoNotSequence := by
  intro i s s' t t' hs ht ht'
  have h : t.timeless = t'.timeless := by
    have := exec_timeless ht
    rw [hs, exec_timeless ht'] at this
    exact (Host.Outcome.next.inj this).symm
  refine ⟨h, ?_⟩
  rw [← pinProjection_timeless t.trace, ← pinProjection_timeless t'.trace]
  exact congrArg (fun u => pinProjection u.trace) h

end Sys2Proof.Machine
end

section
/-! PROOFS. Brackets and tables with their checks (41_sequencer.md R161, R164 to R167): what they leave as it was, the wire
commands and records run by themselves, `EXEC_TABLE`, and that no instruction fetches outside its table. -/

namespace Sys2Proof.Machine

/-! ### What brackets leave as it was -/

theorem TableFrame.sequencerFrame {s t : State} (f : TableFrame s t) : SequencerFrame s t := by
  have kept (k : Nat) (hk : k ≠ s.cfg.csDisp) := f.lineKept hk
  have hidle := f.idle
  have hasync := f.noAsync
  obtain ⟨tx, rx, bc, n, tp, pins, sel, env, ev, cb, ctx, ci, busy, -, rfl, -⟩ := f.same
  exact ⟨rfl, rfl, rfl, rfl, rfl, fun k hk => ⟨(kept k hk).pin, (kept k hk).ready⟩, hasync, hidle⟩

/-- The lines, flags and record of the display that brackets leave exactly as they were (R160, R161, R178). -/
structure PanelKept (s t : State) : Prop where
  dc : t.pins.dc = s.pins.dc
  res : t.pins.res = s.pins.res
  pwrGnd : t.pins.pwrGnd = s.pins.pwrGnd
  pwrHv : t.pins.pwrHv = s.pins.pwrHv
  miso : t.pins.miso = s.pins.miso
  session : t.session = s.session
  busReady : t.busReady = s.busReady
  csReady : t.csReady = s.csReady
  dispReady : t.dispReady = s.dispReady

theorem TableFrame.panelKept {s t : State} (f : TableFrame s t) : PanelKept s t := by
  obtain ⟨tx, rx, bc, n, tp, pins, sel, env, ev, cb, ctx, ci, busy, -, rfl, ⟨rfl, -⟩ | ⟨a, b, rfl, -⟩⟩ := f.same <;>
    exact ⟨rfl, rfl, rfl, rfl, rfl, rfl, rfl, rfl, rfl⟩

/-- The direction of the display's chip-select is as before (R161). -/
theorem TableFrame.csDisp_dir {s t : State} (f : TableFrame s t) :
    (t.pin (.cs s.cfg.csDisp)).dir = (s.pin (.cs s.cfg.csDisp)).dir := by
  obtain ⟨tx, rx, bc, n, tp, pins, sel, env, ev, cb, ctx, ci, busy, -, rfl, ⟨rfl, -⟩ | ⟨a, b, rfl, -⟩⟩ := f.same
  · rfl
  · simp only [State.pin, Pins.get, Pins.released]
    grind

theorem TableFrame.csCount {s t : State} (f : TableFrame s t) : t.pins.cs.length = s.pins.cs.length := by
  obtain ⟨tx, rx, bc, n, tp, pins, sel, env, ev, cb, ctx, ci, busy, -, rfl, ⟨rfl, -⟩ | ⟨a, b, rfl, -⟩⟩ := f.same
  · rfl
  · exact List.length_set

/-! ### What a bracket leaves -/

/-- Clock and data-out are released and the display's chip-select is at its released level (R161). -/
theorem State.bracket_pins (s : State) (bytes : List Byte) :
    ∃ a b, (s.bracket bytes).pins = s.pins.released s.cfg.csDisp (!s.cfg.csActive) a b := by
  obtain ⟨tx, rx, bc, n, a, b, env, ev, cb, ctx, ci, busy, -, he⟩ := (s.bracket_bframe bytes).same
  exact ⟨a, b, by rw [he]⟩

theorem State.bracket_released (s : State) (bytes : List Byte) :
    (s.bracket bytes).pins.sck.dir = .input ∧ (s.bracket bytes).pins.mosi.dir = .input := by
  obtain ⟨a, b, hp⟩ := s.bracket_pins bytes
  rw [hp]
  exact ⟨rfl, rfl⟩

theorem State.bracket_csDisp (s : State) (bytes : List Byte) (hk : s.cfg.csDisp < s.pins.cs.length) :
    (s.bracket bytes).pin (.cs s.cfg.csDisp) =
      { dir := (s.pin (.cs s.cfg.csDisp)).dir, lat := .level (!s.cfg.csActive) } := by
  obtain ⟨a, b, hp⟩ := s.bracket_pins bytes
  exact (pin_of_cs_set (by rw [hp]; rfl) hk _).trans (if_pos rfl)

@[simp] theorem State.bracket_sel (s : State) (bytes : List Byte) : (s.bracket bytes).sel = none := by
  obtain ⟨tx, rx, bc, n, a, b, env, ev, cb, ctx, ci, busy, -, he⟩ := (s.bracket_bframe bytes).same
  rw [he]

@[simp] theorem State.bracket_tp (s : State) (bytes : List Byte) : (s.bracket bytes).tp = s.tp := by
  obtain ⟨tx, rx, bc, n, a, b, env, ev, cb, ctx, ci, busy, -, he⟩ := (s.bracket_bframe bytes).same
  rw [he]

/-- The events of a bracket (R161). -/
theorem State.bracket_trace {s : State} (h : MisoReleased s) (bytes : List Byte) :
    (s.bracket bytes).trace = s.trace ++ bracketEvents s.cfg bytes s.env := by
  rw [State.bracket_eq s bytes h]
  rfl

theorem State.bracket_env {s : State} (h : MisoReleased s) (bytes : List Byte) :
    (s.bracket bytes).env = s.env.after (samplesPerByte s.cfg * bytes.length) := by
  rw [State.bracket_eq s bytes h, afterBracket_env]

theorem MisoReleased.congr {s t : State} (h : MisoReleased s) (hcfg : t.cfg = s.cfg) (hmiso : t.pins.miso = s.pins.miso) :
    MisoReleased t := by
  rw [MisoReleased, hcfg, hmiso]
  exact h

theorem TableFrame.misoReleased {s t : State} (f : TableFrame s t) (h : MisoReleased s) : MisoReleased t :=
  h.congr f.opFrame.cfg f.panelKept.miso

/-! ### Wire commands and records run by themselves -/

theorem BracketReady.bracketVerdict {s : State} (h : BracketReady s) : bracketVerdict s = .go := by
  simp [Machine.bracketVerdict, csAssertVerdict, badCs_eq_false_iff.2 h.exists_cs, busHeld_eq_false_iff.2 h.free,
    h.busReady, h.csReady, h.idle]

/-- Settles O16: the checks of a bracket pass, and the body is one bracket. -/
theorem wireCommandsAreOneBracket : Obligations.WireCommandsAreOneBracket := by
  intro s reg first last vals pix h
  have one {i : Instr} {bytes : List Byte} (hv : verdictOf i s = bracketVerdict s)
      (hb : bodyOf i s = some (s.bracket bytes)) : exec i s = .next (afterBracket s bytes) := by
    rw [State.bracket_eq s bytes h.miso] at hb
    exact exec_of_go h.clear (hv.trans h.bracketVerdict) hb
  exact ⟨one rfl rfl, one rfl rfl, one rfl rfl, one rfl rfl⟩

/-- Settles O17: the frame of a bracket, and its closed form for the trace. -/
theorem bracketLeavesTheBusFree : Obligations.BracketLeavesTheBusFree := by
  intro s reg vals h hs
  have kept := (s.bracket_tframe (reg :: vals)).panelKept
  obtain ⟨a, b, hp⟩ := s.bracket_pins (reg :: vals)
  obtain ⟨hsck, hmosi⟩ := s.bracket_released (reg :: vals)
  exact ⟨s.bracket (reg :: vals), exec_of_go h.clear h.bracketVerdict rfl, s.bracket_sel _, hsck, hmosi,
    s.bracket_csDisp _ (hs.pins ▸ h.exists_cs), fun l h1 h2 h3 => pin_of_bus_written hp h1 h2 h3,
    s.bracket_trace h.miso _, s.bracket_tp _, kept.session, kept.busReady, kept.csReady, kept.dispReady,
    (s.bracket_tframe _).sequencerFrame⟩

/-- Settles O18: the checks of a bracket pass, and the body is the record's bracket and the advance of `TP`. -/
theorem regwrResult : Obligations.RegwrResult :=
  fun s reg vals h => exec_of_go h.clear h.bracketVerdict (congrArg some (s.regwr_eq reg vals h.miso))

/-! ### The checks of EXEC_TABLE and DISP_INIT -/

@[simp] theorem Verdict.beforeHold_raise (c : Cause) (held : Bool) : (Verdict.raise c).beforeHold held = .raise c := rfl

section
variable {s : State} {table : List Byte}

theorem execTableVerdict_of_not_ready (h : s.busReady = false ∨ s.isCsReady s.cfg.csDisp = false) :
    execTableVerdict table s = .raise .notInit := by
  have hcheck : (!s.busReady || !s.isCsReady s.cfg.csDisp) = true := by simpa using h
  simp [execTableVerdict, hcheck]

variable (hbus : s.busReady = true) (hready : s.isCsReady s.cfg.csDisp = true)
include hbus hready

theorem execTableVerdict_of_held (hsel : s.sel ≠ none) : execTableVerdict table s = .raise .busHeld := by
  simp [execTableVerdict, hbus, hready, busHeld_eq_true_iff.2 hsel]

theorem execTableVerdict_of_malformed (hsel : s.sel = none) (hbad : tableWellFormed table = false) :
    execTableVerdict table s = .raise .tableOverrun := by
  simp [execTableVerdict, hbus, hready, busHeld_eq_false_iff.2 hsel, hbad]

theorem execTableVerdict_of_wellFormed (hsel : s.sel = none) (hgood : tableWellFormed table = true)
    (hidle : s.inFlight = false ∨ table.head? = some 0) : execTableVerdict table s = .go := by
  rcases hidle with h | h <;> simp [execTableVerdict, hbus, hready, busHeld_eq_false_iff.2 hsel, hgood, h]

end

theorem dispInitVerdict_of_malformed {s : State} (hsel : s.sel = none) (hbad : tableWellFormed s.cfg.configTable = false) :
    dispInitVerdict s = .raise .tableOverrun := by
  simp [dispInitVerdict, busHeld_eq_false_iff.2 hsel, hbad]

theorem dispInitVerdict_of_wellFormed {s : State} (hsel : s.sel = none) (hidle : s.inFlight = false)
    (hgood : tableWellFormed s.cfg.configTable = true) : dispInitVerdict s = .go := by
  simp [dispInitVerdict, busHeld_eq_false_iff.2 hsel, hidle, hgood]

theorem tableWellFormed_of_execTableVerdict_go {table : List Byte} {s : State} (e : execTableVerdict table s = .go) :
    tableWellFormed table = true := by
  have e := (Verdict.beforeHold_go e).1
  rw [firstFailing_go_iff] at e
  simpa using e (!tableWellFormed table, .tableOverrun) (by simp)

theorem tableWellFormed_of_dispInitVerdict_go {s : State} (e : dispInitVerdict s = .go) :
    tableWellFormed s.cfg.configTable = true := by
  have e := (Verdict.beforeHold_go e).1
  rw [firstFailing_go_iff] at e
  simpa using e (!tableWellFormed s.cfg.configTable, .tableOverrun) (by simp)

/-- Settles O22: the third check of `EXEC_TABLE` and the second of `DISP_INIT`, with the checks before them passed. -/
theorem badTablesAreRefusedWhole : Obligations.BadTablesAreRefusedWhole :=
  fun _ hf hsel =>
    ⟨fun _ hbus hready hbad =>
      exec_of_raise (c := .tableOverrun) hf (execTableVerdict_of_malformed hbus hready hsel hbad),
    fun hbad => exec_of_raise (c := .tableOverrun) hf (dispInitVerdict_of_malformed hsel hbad)⟩

/-- Settles O25: the first check of `DISP_INIT`. -/
theorem dispInitNeedsAFreeBus : Obligations.DispInitNeedsAFreeBus :=
  fun _ hf hsel => exec_of_raise (c := .busHeld) hf (by simp [verdictOf, dispInitVerdict, busHeld_eq_true_iff.2 hsel])

/-! ### Running a table -/

/-- A table has more bytes than records, so its length bounds the fetches (R229). -/
theorem length_lt_table (records : List (List Byte)) (tail : List Byte) :
    records.length < (records.flatMap recordBytes ++ 0 :: tail).length := by
  induction records with
  | nil => simp
  | cons wire rest ih => simp [recordBytes] at ih ⊢; omega

/-- `EXEC_TABLE` of legal records and a sentinel (R164). -/
theorem State.execTable_records {s : State} {records : List (List Byte)} (hr : ∀ wire ∈ records, legalRecord wire)
    (tail : List Byte) (h : MisoReleased s) :
    s.execTable (records.flatMap recordBytes ++ 0 :: tail) = some (afterRecords { s with tp := 0 } records) :=
  State.runTable_records records hr { s with tp := 0 } [] tail _ (length_lt_table records tail) rfl h

/-- A well-formed table never fetches outside itself (R167). -/
theorem State.execTable_total {table : List Byte} (h : tableWellFormed table = true) (s : State) :
    ∃ t, s.execTable table = some t := by
  obtain ⟨records, tail, hr, rfl⟩ := (wellFormedTablesAreRecordsAndSentinel table).1 h
  obtain ⟨t, ht, -⟩ :=
    State.runTable_total records hr { s with tp := 0 } [] tail _ (length_lt_table records tail) rfl
  exact ⟨t, ht⟩

/-- An instruction whose checks pass has a body that answers. -/
theorem bodyOf_total {i : Instr} {s : State} (hv : verdictOf i s = .go) : ∃ t, bodyOf i s = some t := by
  cases i with
  | execTable table => exact State.execTable_total (tableWellFormed_of_execTableVerdict_go hv) s
  | dispInit =>
    obtain ⟨t, ht⟩ := State.execTable_total (tableWellFormed_of_dispInitVerdict_go hv) s.bringUp
    exact ⟨t.lightUp, by rw [bodyOf, State.dispInit_eq, ht]; rfl⟩
  | _ => exact ⟨_, rfl⟩

/-- Settles O23: what passes the checks has a body that answers, and what does not answers at once. -/
theorem everyInstructionAnswers : Obligations.EveryInstructionAnswers := by
  intro i s
  rw [exec_eq]
  rcases operateTable_cases (verdictOf i s) (bodyOf i) s with
    he | ⟨-, hv, ⟨t, -, he⟩ | ⟨hnone, -⟩⟩ | ⟨-, c, -, he⟩
  · exact ⟨_, he⟩
  · exact ⟨_, he⟩
  · obtain ⟨t, ht⟩ := bodyOf_total hv
    rw [ht] at hnone
    cases hnone
  · exact ⟨_, he⟩

/-- Settles O19: `END` has no check and no effect, and a table's first fetch at offset 0 finds the sentinel. -/
theorem endMarkResult : Obligations.EndMarkResult := by
  refine ⟨fun s => ?_, fun s tail hf hbus hready hsel => ?_⟩
  · cases hf : s.fault
    · exact exec_of_go hf rfl rfl
    · exact operate_fault .go State.endMark s hf
  · refine exec_of_go hf (execTableVerdict_of_wellFormed hbus hready hsel rfl (.inr rfl)) ?_
    have hfetch := fetchRecord_sentinel [] tail
    simp [bodyOf, State.execTable, State.runTable, State.endMark] at hfetch ⊢
    rw [hfetch]

/-! ### EXEC_TABLE -/

@[simp] theorem afterRecord_cfg (s : State) (wire : List Byte) : (afterRecord s wire).cfg = s.cfg := afterBracket_cfg s wire

@[simp] theorem afterRecord_env (s : State) (wire : List Byte) :
    (afterRecord s wire).env = s.env.after (samplesPerByte s.cfg * wire.length) := afterBracket_env s wire

@[simp] theorem afterRecords_cfg (s : State) (records : List (List Byte)) : (afterRecords s records).cfg = s.cfg := by
  induction records generalizing s with
  | nil => rfl
  | cons wire rest ih => rw [afterRecords, List.foldl_cons, ← afterRecords, ih, afterRecord_cfg]

theorem afterRecords_tp (s : State) (records : List (List Byte)) :
    (afterRecords s records).tp = s.tp + sentinelOffset records := by
  induction records generalizing s with
  | nil => rfl
  | cons wire rest ih =>
    have htp : (afterRecord s wire).tp = s.tp + 1 + wire.length := rfl
    rw [afterRecords, List.foldl_cons, ← afterRecords, ih, htp]
    simp [sentinelOffset]
    omega

/-- One bracket for each record, in table order (R164). -/
theorem afterRecords_trace (s : State) (records : List (List Byte)) :
    (afterRecords s records).trace = s.trace ++ bracketsEvents s.cfg records s.env := by
  induction records generalizing s with
  | nil => simp [afterRecords, bracketsEvents]
  | cons wire rest ih =>
    have htrace : (afterRecord s wire).trace = s.trace ++ bracketEvents s.cfg wire s.env := rfl
    rw [afterRecords, List.foldl_cons, ← afterRecords, ih, htrace]
    simp [bracketsEvents]

theorem afterRecords_env (s : State) (records : List (List Byte)) :
    (afterRecords s records).env = s.env.after (samplesPerByte s.cfg * (records.map List.length).sum) := by
  induction records generalizing s with
  | nil => rfl
  | cons wire rest ih =>
    rw [afterRecords, List.foldl_cons, ← afterRecords, ih]
    simp [← Env.after_add, Nat.mul_add]

/-- `EXEC_TABLE` of legal records and a sentinel, with its checks passed (R164). -/
theorem BracketReady.exec_execTable {s : State} (h : BracketReady s) {records : List (List Byte)}
    (hr : ∀ wire ∈ records, legalRecord wire) (tail : List Byte) :
    exec (.execTable (records.flatMap recordBytes ++ 0 :: tail)) s = .next (afterRecords { s with tp := 0 } records) :=
  exec_of_go h.clear
    (execTableVerdict_of_wellFormed h.busReady h.csReady h.free (tableWellFormed_records hr tail) (.inl h.idle))
    (State.execTable_records hr tail h.miso)

/-- Settles O21: the closed form of the table for the trace and `TP`, its frame for all else, and the first check that
fails. -/
theorem execTableResult : Obligations.ExecTableResult := by
  intro s
  refine ⟨fun records tail h hr => ⟨_, h.exec_execTable hr tail, rfl, ?_, afterRecords_trace _ _, ?_⟩,
    fun table hf hnot => exec_of_raise (c := .notInit) hf (execTableVerdict_of_not_ready hnot),
    fun table hf hbus hready hsel => exec_of_raise (c := .busHeld) hf (execTableVerdict_of_held hbus hready hsel)⟩
  · rw [afterRecords_tp, Nat.zero_add]
  · have frame := State.execTable_tframe (State.execTable_records hr tail h.miso)
    have kept := frame.panelKept
    exact ⟨frame.free h.free, kept.dc, kept.res, kept.pwrGnd, kept.pwrHv, kept.miso, kept.session, kept.busReady,
      kept.csReady, kept.dispReady, frame.sequencerFrame⟩

end Sys2Proof.Machine
end

section
/-! PROOFS. `SEND` and `DISP_INIT` with their checks (41_sequencer.md R170 to R177): their events in order, and the lines, flags
and record they end with. -/

namespace Sys2Proof.Machine

/-! ### Frames of sequencer operations -/

theorem SequencerFrame.trans {s t u : State} (a : SequencerFrame s t) (b : SequencerFrame t u) : SequencerFrame s u where
  cfg := b.cfg.trans a.cfg
  rxbuf := b.rxbuf.trans a.rxbuf
  program := b.program.trans a.program
  fault := b.fault.trans a.fault
  fcause := b.fcause.trans a.fcause
  otherCs k hk := by
    obtain ⟨hpin, hready⟩ := a.otherCs k hk
    obtain ⟨hpin', hready'⟩ := b.otherCs k (by rwa [a.cfg])
    exact ⟨hpin'.trans hpin, hready'.trans hready⟩
  noAsync h := by
    obtain ⟨h1, h2, h3, h4⟩ := a.noAsync h
    obtain ⟨h1', h2', h3', h4'⟩ := b.noAsync (by rwa [a.cfg])
    exact ⟨h1'.trans h1, h2'.trans h2, h3'.trans h3, h4'.trans h4⟩
  idle := b.idle ∘ a.idle

theorem State.bracket_sequencerFrame (s : State) (bytes : List Byte) : SequencerFrame s (s.bracket bytes) :=
  (s.bracket_tframe bytes).sequencerFrame

theorem SequencerFrame.setDc (s : State) (v : Bool) (mode : DcMode) : SequencerFrame s (s.setDc v mode) :=
  ⟨rfl, rfl, rfl, rfl, rfl, fun _ _ => ⟨rfl, rfl⟩, fun _ => ⟨rfl, rfl, rfl, rfl⟩, id⟩

theorem SequencerFrame.updateSession (s : State) (f : Session → Session) : SequencerFrame s (s.updateSession f) :=
  ⟨rfl, rfl, rfl, rfl, rfl, fun _ _ => ⟨rfl, rfl⟩, fun _ => ⟨rfl, rfl, rfl, rfl⟩, id⟩

theorem State.bringUp_sequencerFrame (s : State) : SequencerFrame s s.bringUp := by
  have kept (k : Nat) (hk : k ≠ s.cfg.csDisp) := s.bringUp_lineKept hk
  rw [State.bringUp, State.dispSteps_eq] at kept ⊢
  exact ⟨rfl, rfl, rfl, rfl, rfl, fun k hk => ⟨(kept k hk).pin, (kept k hk).ready⟩, fun _ => ⟨rfl, rfl, rfl, rfl⟩, id⟩

/-! ### SEND -/

theorem State.windowBrackets_tframe (s : State) (x y : Byte) : TableFrame s (s.windowBrackets x y) :=
  (s.bracket_tframe _).trans (State.bracket_tframe _ _)

section
variable (s : State) (x y : Byte)

@[simp] theorem State.windowBrackets_cfg : (s.windowBrackets x y).cfg = s.cfg := (s.windowBrackets_tframe x y).opFrame.cfg

@[simp] theorem State.sendWindow_cfg : (s.sendWindow x y).cfg = s.cfg := by simp [State.sendWindow]

@[simp] theorem State.sendWindow_pins :
    (s.sendWindow x y).pins =
      { (s.windowBrackets x y).pins with
        dc := { dir := (s.windowBrackets x y).pins.dc.dir, lat := .level s.cfg.dcData } } := by
  simp [State.sendWindow]

@[simp] theorem State.sendWindow_session :
    (s.sendWindow x y).session =
      { (s.windowBrackets x y).session with win := some ⟨x, s.cfg.colEnd, y, s.cfg.rowEnd⟩, dcMode := .data } := by
  simp [State.sendWindow]

@[simp] theorem State.sendWindow_pin_cs (k : Nat) :
    (s.sendWindow x y).pin (.cs k) = (s.windowBrackets x y).pin (.cs k) := by
  simp [State.sendWindow]

@[simp] theorem State.sendWindow_tp : (s.sendWindow x y).tp = s.tp := by simp [State.sendWindow, State.windowBrackets]

@[simp] theorem State.sendWindow_busReady : (s.sendWindow x y).busReady = s.busReady := by
  simp [State.sendWindow, (s.windowBrackets_tframe x y).panelKept.busReady]

@[simp] theorem State.sendWindow_csReady : (s.sendWindow x y).csReady = s.csReady := by
  simp [State.sendWindow, (s.windowBrackets_tframe x y).panelKept.csReady]

@[simp] theorem State.sendWindow_dispReady : (s.sendWindow x y).dispReady = s.dispReady := by
  simp [State.sendWindow, (s.windowBrackets_tframe x y).panelKept.dispReady]

end

theorem MisoReleased.sendWindow {s : State} (h : MisoReleased s) (x y : Byte) : MisoReleased (s.sendWindow x y) :=
  h.congr (s.sendWindow_cfg x y) (by simp [(s.windowBrackets_tframe x y).panelKept.miso])

theorem State.send_sequencerFrame (s : State) (x y : Byte) (pix : List Byte) : SequencerFrame s (s.send x y pix) := by
  rw [State.send_eq]
  exact (s.windowBrackets_tframe x y).sequencerFrame.trans <| (SequencerFrame.updateSession _ _).trans <|
    (SequencerFrame.setDc _ _ _).trans <| (State.bracket_sequencerFrame _ _).trans (.setDc _ _ _)

theorem State.windowBrackets_trace {s : State} (h : MisoReleased s) (x y : Byte) :
    (s.windowBrackets x y).trace = s.trace ++ (bracketEvents s.cfg [s.cfg.colAddrReg, x, s.cfg.colEnd] s.env ++
      bracketEvents s.cfg [s.cfg.rowAddrReg, y, s.cfg.rowEnd] (s.env.after (samplesPerByte s.cfg * 3))) := by
  have h' := (s.bracket_tframe [s.cfg.colAddrReg, x, s.cfg.colEnd]).misoReleased h
  simp [State.windowBrackets, State.bracket_trace h', State.bracket_trace h, State.bracket_env h]

theorem State.windowBrackets_env {s : State} (h : MisoReleased s) (x y : Byte) :
    (s.windowBrackets x y).env = s.env.after (samplesPerByte s.cfg * 6) := by
  have h' := (s.bracket_tframe [s.cfg.colAddrReg, x, s.cfg.colEnd]).misoReleased h
  simp [State.windowBrackets, State.bracket_env h', State.bracket_env h, ← Env.after_add, ← Nat.mul_add]

/-- The events of `SEND` (R176). -/
theorem State.send_trace {s : State} (h : MisoReleased s) (x y : Byte) (pix : List Byte) :
    (s.send x y pix).trace = s.trace ++ sendEvents s.cfg x y pix s.env := by
  have htrace : (s.sendWindow x y).trace = (s.windowBrackets x y).trace ++ [.set .dc s.cfg.dcData] := by
    simp [State.sendWindow]
  have henv : (s.sendWindow x y).env = (s.windowBrackets x y).env := by simp [State.sendWindow]
  rw [State.send_eq, State.setDc_trace, State.bracket_trace (h.sendWindow x y), htrace, henv, State.sendWindow_cfg,
    State.windowBrackets_trace h, State.windowBrackets_env h]
  simp [sendEvents]

theorem sendVerdict_of_ready {s : State} (hready : s.dispReady = true) (hsel : s.sel = none)
    (hidle : s.inFlight = false) : sendVerdict s = .go := by
  simp [sendVerdict, hready, busHeld_eq_false_iff.2 hsel, hidle]

theorem exec_send {s : State} (x y : Byte) (pix : List Byte) (hf : s.fault = false) (hready : s.dispReady = true)
    (hsel : s.sel = none) (hidle : s.inFlight = false) : exec (.send x y pix) s = .next (s.send x y pix) :=
  exec_of_go hf (sendVerdict_of_ready hready hsel hidle) rfl

/-- Settles O27: the brackets' events and frames and the three writes between them, and the first check that fails. -/
theorem sendResult : Obligations.SendResult := by
  intro s x y pix hf
  refine ⟨fun hready hsel hidle hm hk => ⟨_, exec_send x y pix hf hready hsel hidle, s.send_trace hm x y pix, ?_⟩,
    fun hready => ?_, fun hready hsel => ?_⟩
  · have window := (s.windowBrackets_tframe x y).panelKept
    have pixels := ((s.sendWindow x y).bracket_tframe pix).panelKept
    obtain ⟨hsck, hmosi⟩ := (s.sendWindow x y).bracket_released pix
    have frame := s.send_sequencerFrame x y pix
    have hcount : s.cfg.csDisp < (s.sendWindow x y).pins.cs.length := by
      simpa [(s.windowBrackets_tframe x y).csCount] using hk
    have hcs := (s.sendWindow x y).bracket_csDisp pix (by rwa [State.sendWindow_cfg])
    have hdir := (s.windowBrackets_tframe x y).csDisp_dir
    rw [State.send_eq] at frame ⊢
    exact ⟨by simp [pixels.session, window.session], by simp, by simpa using hsck, by simpa using hmosi,
      by simpa [hdir] using hcs, by simp [pixels.dc, window.dc], by simp [pixels.res, window.res],
      by simp [pixels.pwrGnd, window.pwrGnd], by simp [pixels.pwrHv, window.pwrHv], by simp [pixels.miso, window.miso],
      by simp, by simp [pixels.busReady], by simp [pixels.csReady], by simp [pixels.dispReady], frame⟩
  · exact exec_of_raise (c := .dispNotInit) hf (by simp [verdictOf, sendVerdict, hready])
  · exact exec_of_raise (c := .busHeld) hf (by simp [verdictOf, sendVerdict, hready, busHeld_eq_true_iff.2 hsel])

/-! ### DISP_INIT -/

section
variable (s : State)

@[simp] theorem State.bringUp_cfg : s.bringUp.cfg = s.cfg := s.bringUp_opFrame.cfg
@[simp] theorem State.bringUp_env : s.bringUp.env = s.env := by rw [State.bringUp, State.dispSteps_eq]
@[simp] theorem State.bringUp_trace : s.bringUp.trace = s.trace ++ bringUpEvents s.cfg := by
  rw [State.bringUp, State.dispSteps_eq]
@[simp] theorem State.bringUp_session :
    s.bringUp.session = { s.session with rail := .gndOnly, resetLine := .released, dcMode := .cmd } := by
  rw [State.bringUp, State.dispSteps_eq]
@[simp] theorem State.bringUp_miso :
    s.bringUp.pins.miso = if s.cfg.hasMiso then { s.pins.miso with dir := .input } else s.pins.miso := by
  rw [State.bringUp, State.dispSteps_eq]
@[simp] theorem State.bringUp_pwrGnd :
    s.bringUp.pins.pwrGnd =
      if s.cfg.hasPwrGnd then { dir := .output, lat := .level s.cfg.gndOn } else s.pins.pwrGnd := by
  rw [State.bringUp, State.dispSteps_eq]
@[simp] theorem State.bringUp_cs :
    s.bringUp.pins.cs = s.pins.cs.set s.cfg.csDisp { dir := .output, lat := .level (!s.cfg.csActive) } := by
  rw [State.bringUp, State.dispSteps_eq]

@[simp] theorem State.railsOn_cfg : s.railsOn.cfg = s.cfg := rfl
@[simp] theorem State.railsOn_pins :
    s.railsOn.pins = { s.pins with pwrHv := { dir := s.pins.pwrHv.dir, lat := .level s.cfg.hvOn } } := rfl
@[simp] theorem State.railsOn_env : s.railsOn.env = s.env := rfl
@[simp] theorem State.railsOn_tp : s.railsOn.tp = s.tp := rfl
@[simp] theorem State.railsOn_session :
    s.railsOn.session = { s.session with phase := .configured, win := none, rail := .full } := rfl
@[simp] theorem State.railsOn_trace :
    s.railsOn.trace = s.trace ++ [.set .pwrHv s.cfg.hvOn, .delay s.cfg.tHvSettle] := by
  simp [State.railsOn]

theorem State.lightUp_pins : s.lightUp.pins = (s.railsOn.bracket s.cfg.disponCmd).pins := by simp [State.lightUp_eq]

@[simp] theorem State.lightUp_miso : s.lightUp.pins.miso = s.pins.miso := by
  rw [State.lightUp_pins, (s.railsOn.bracket_tframe _).panelKept.miso, State.railsOn_pins]
@[simp] theorem State.lightUp_pwrGnd : s.lightUp.pins.pwrGnd = s.pins.pwrGnd := by
  rw [State.lightUp_pins, (s.railsOn.bracket_tframe _).panelKept.pwrGnd, State.railsOn_pins]
@[simp] theorem State.lightUp_tp : s.lightUp.tp = s.tp := by simp [State.lightUp_eq]
@[simp] theorem State.lightUp_sel : s.lightUp.sel = none := by simp [State.lightUp_eq]
@[simp] theorem State.lightUp_session :
    s.lightUp.session = { s.session with rail := .full, win := none, phase := .on } := by
  simp [State.lightUp_eq, (s.railsOn.bracket_tframe s.cfg.disponCmd).panelKept.session]

theorem State.lightUp_released : s.lightUp.pins.sck.dir = .input ∧ s.lightUp.pins.mosi.dir = .input := by
  rw [State.lightUp_pins]
  exact s.railsOn.bracket_released s.cfg.disponCmd

theorem State.bringUp_csDisp (hk : s.cfg.csDisp < s.pins.cs.length) :
    s.bringUp.pin (.cs s.cfg.csDisp) = { dir := .output, lat := .level (!s.cfg.csActive) } :=
  (pin_of_cs_set s.bringUp_cs hk _).trans (if_pos rfl)

theorem State.lightUp_csDisp (hk : s.cfg.csDisp < s.pins.cs.length) :
    s.lightUp.pin (.cs s.cfg.csDisp) =
      { dir := (s.pin (.cs s.cfg.csDisp)).dir, lat := .level (!s.cfg.csActive) } := by
  rw [State.pin, State.lightUp_pins]
  exact s.railsOn.bracket_csDisp s.cfg.disponCmd hk

end

/-- Bring-up releases the data-in line where there is one (R122). -/
theorem State.bringUp_misoReleased (s : State) : MisoReleased s.bringUp := by
  intro h
  rw [State.bringUp_cfg] at h
  simp [h]

/-- The events of bring-up steps 8 and 9 (R170). -/
theorem State.lightUp_trace {s : State} (h : MisoReleased s) :
    s.lightUp.trace = s.trace ++ ([.set .pwrHv s.cfg.hvOn, .delay s.cfg.tHvSettle] ++
      (bracketEvents s.cfg s.cfg.disponCmd s.env ++ [.delay s.cfg.tDisponSettle])) := by
  have hrails : MisoReleased s.railsOn := h
  simp [State.lightUp_eq, State.bracket_trace hrails]

theorem State.lightUp_sequencerFrame (s : State) : SequencerFrame s s.lightUp := by
  rw [State.lightUp_eq]
  have rails : SequencerFrame s s.railsOn :=
    ⟨rfl, rfl, rfl, rfl, rfl, fun _ _ => ⟨rfl, rfl⟩, fun _ => ⟨rfl, rfl, rfl, rfl⟩, id⟩
  refine rails.trans <| (State.bracket_sequencerFrame _ s.cfg.disponCmd).trans ?_
  exact ⟨rfl, rfl, rfl, rfl, rfl, fun _ _ => ⟨rfl, rfl⟩, fun _ => ⟨rfl, rfl, rfl, rfl⟩, id⟩

/-- The state in which the configuration table has run (R170 step 7). -/
def State.configured (s : State) (records : List (List Byte)) : State := afterRecords { s.bringUp with tp := 0 } records

@[simp] theorem State.configured_cfg (s : State) (records : List (List Byte)) : (s.configured records).cfg = s.cfg := by
  simp [State.configured]

@[simp] theorem State.configured_tp (s : State) (records : List (List Byte)) :
    (s.configured records).tp = sentinelOffset records := by
  simp [State.configured, afterRecords_tp]

section
variable {s : State} {records : List (List Byte)} {tail : List Byte} (hr : ∀ wire ∈ records, legalRecord wire)
include hr

theorem State.bringUp_execTable (tail : List Byte) :
    s.bringUp.execTable (records.flatMap recordBytes ++ 0 :: tail) = some (s.configured records) :=
  State.execTable_records hr tail s.bringUp_misoReleased

theorem State.configured_tframe : TableFrame s.bringUp (s.configured records) :=
  State.execTable_tframe (State.bringUp_execTable hr [])

/-- `DISP_INIT` with a configuration table of legal records and a sentinel (R172). -/
theorem State.dispInit_records (htable : s.cfg.configTable = records.flatMap recordBytes ++ 0 :: tail) :
    s.dispInit = some (s.configured records).lightUp := by
  rw [State.dispInit_eq, htable, State.bringUp_execTable hr tail]
  rfl

theorem exec_dispInit (hf : s.fault = false) (hsel : s.sel = none) (hidle : s.inFlight = false)
    (htable : s.cfg.configTable = records.flatMap recordBytes ++ 0 :: tail) :
    exec .dispInit s = .next (s.configured records).lightUp :=
  have hgood : tableWellFormed s.cfg.configTable = true := htable ▸ tableWellFormed_records hr tail
  exec_of_go hf (dispInitVerdict_of_wellFormed hsel hidle hgood) (State.dispInit_records hr htable)

end

/-- The events of `DISP_INIT` (R170). -/
theorem State.dispInit_trace (s : State) {records : List (List Byte)} (hr : ∀ wire ∈ records, legalRecord wire) :
    (s.configured records).lightUp.trace = s.trace ++ dispInitEvents s.cfg records s.env := by
  have htrace := afterRecords_trace { s.bringUp with tp := 0 } records
  have henv := afterRecords_env { s.bringUp with tp := 0 } records
  have frame := State.configured_tframe (s := s) hr
  rw [State.lightUp_trace (frame.misoReleased s.bringUp_misoReleased), frame.opFrame.cfg, State.configured, htrace, henv]
  simp [dispInitEvents]

/-- Settles O24: the panel as bring-up leaves it, the frames of the table and of the display-on bracket, and the events of
both. -/
theorem dispInitResult : Obligations.DispInitResult := by
  intro s records tail hf hsel hidle hs hk hr htable
  have hdisp := State.dispInit_records hr htable
  have panel := State.dispInit_panelOn (hs.ready ▸ hk) hdisp
  have hcfg := (State.dispInit_opFrame hdisp).cfg
  have table := State.configured_tframe (s := s) hr
  have hcount : s.cfg.csDisp < s.pins.cs.length := hs.pins ▸ hk
  have hcs := (s.configured records).lightUp_csDisp (by simpa [table.csCount] using hcount)
  have hdir := table.csDisp_dir
  rw [State.bringUp_cfg, s.bringUp_csDisp hcount] at hdir
  rw [State.configured_cfg, hdir] at hcs
  obtain ⟨hsck, hmosi⟩ := (s.configured records).lightUp_released
  refine ⟨_, exec_dispInit hr hf hsel hidle htable, s.dispInit_trace hr, panel.busReady, hcfg ▸ panel.csReady,
    panel.dispReady, State.lightUp_sel _, by simp, hsck, hmosi, hcs, hcfg ▸ panel.dc, hcfg ▸ panel.res,
    hcfg ▸ panel.pwrHv, ?_, ?_, ?_, ?_⟩
  · simp [table.panelKept.pwrGnd]
  · simp [table.panelKept.miso]
  · simp [table.panelKept.session]
  · exact s.bringUp_sequencerFrame.trans <| table.sequencerFrame.trans (State.lightUp_sequencerFrame _)

end Sys2Proof.Machine
end

section
/-! PROOFS. The data/command line (41_sequencer.md R178): an instruction other than `DISP_INIT` and `SEND` is made of bus
operations, transfers and brackets, and these leave the display's control lines and the session's record of them alone. -/

namespace Sys2Proof.Machine

/-- Is an event on a control line of the display: `DC`, `RES` or a power line? -/
def Event.onControl (e : Event) : Bool := e.onLine .dc || e.onLine .res || e.onLine .pwrGnd || e.onLine .pwrHv

theorem Event.onControl_of_ofTransfer {e : Event} (h : Event.ofTransfer e = true) : e.onControl = false := by
  unfold Event.ofTransfer at h
  split at h
  case h_6 => cases h
  all_goals rfl

theorem Event.onControl_of_ofBracket {k : Nat} {e : Event} (h : Event.ofBracket k e) : e.onControl = false := by
  rcases h with h | rfl | rfl | rfl | rfl | ⟨v, rfl⟩ | ⟨c, rfl⟩
  · exact Event.onControl_of_ofTransfer h
  all_goals rfl

/-- From `s` to `t` the control lines and the session's record of them stay, and every new event is off them. -/
structure ControlKept (s t : State) : Prop where
  session : SessionSame s t
  trace : ∃ ev, t.trace = s.trace ++ ev ∧ ∀ e ∈ ev, e.onControl = false

theorem ControlKept.refl (s : State) : ControlKept s s :=
  ⟨⟨rfl, rfl, rfl, rfl, rfl, rfl, rfl, rfl, rfl, rfl, id, fun _ => id⟩, [], by simp, by simp⟩

theorem ControlKept.recorded (s : State) (code : Nat) : ControlKept s (recorded s code) :=
  ⟨⟨rfl, rfl, rfl, rfl, rfl, rfl, rfl, rfl, rfl, rfl, id, fun _ => id⟩, [], by simp [Machine.recorded], by simp⟩

theorem IssuedFrame.controlKept {s t : State} (f : IssuedFrame s t) : ControlKept s t := by
  refine ⟨f.sessionSame, ?_⟩
  obtain ⟨tx, rx, bc, n, buf, env, rxbuf, ev, cb, ctx, ci, busy, hev, rfl⟩ := f.same
  refine ⟨ev, rfl, fun e he => ?_⟩
  rcases hev e he with h | ⟨c, rfl⟩
  · exact Event.onControl_of_ofTransfer h
  · rfl

theorem TableFrame.controlKept {s t : State} (f : TableFrame s t) : ControlKept s t := by
  refine ⟨f.sessionSame, ?_⟩
  obtain ⟨tx, rx, bc, n, tp, pins, sel, env, ev, cb, ctx, ci, busy, hev, rfl, -⟩ := f.same
  exact ⟨ev, rfl, fun e he => Event.onControl_of_ofBracket (hev e he)⟩

theorem State.busInit_controlKept (s : State) : ControlKept s s.busInit := by
  refine ⟨s.busInit_sessionSame, _, by rw [State.busInit_eq], ?_⟩
  cases s.cfg.hasMiso <;> simp [Event.onControl, Event.onLine]

theorem State.csInit_controlKept (s : State) (k : Nat) : ControlKept s (s.csInit k) :=
  ⟨⟨rfl, rfl, rfl, rfl, rfl, rfl, rfl, rfl, rfl, rfl, id, (s.csInit_opFrame k).csReady⟩,
    [.set (.cs k) (!s.cfg.csActive), .dirOut (.cs k)], by simp [State.csInit], by simp [Event.onControl, Event.onLine]⟩

theorem State.csAssert_controlKept (s : State) (k : Nat) : ControlKept s (s.csAssert k) :=
  ⟨s.csAssert_sessionSame k, assertEvents s.cfg k, by rw [State.csAssert_eq],
    by simp [assertEvents, Event.onControl, Event.onLine]⟩

theorem State.csRelease_controlKept (s : State) (k : Nat) : ControlKept s (s.csRelease k) :=
  ⟨s.csRelease_sessionSame k, releaseEvents s.cfg k, by rw [State.csRelease_eq],
    by simp [releaseEvents, Event.onControl, Event.onLine]⟩

theorem bodyOf_controlKept {i : Instr} {s t : State} (hv : verdictOf i s = .go) (hb : bodyOf i s = some t)
    (hinit : i ≠ .dispInit) (hsend : ∀ x y pix, i ≠ .send x y pix) : ControlKept s t := by
  cases i with
  | execTable table => exact (State.execTable_tframe hb).controlKept
  | dispInit => exact absurd rfl hinit
  | send x y pix => exact absurd rfl (hsend x y pix)
  | busInit => cases hb; exact s.busInit_controlKept
  | csInit k => cases hb; exact s.csInit_controlKept k
  | csAssert k => cases hb; exact s.csAssert_controlKept k
  | csRelease k => cases hb; exact s.csRelease_controlKept k
  | write buf => cases hb; exact (s.transfer_issued _).controlKept
  | read txByte n => cases hb; exact (s.transfer_issued _).controlKept
  | xferStart tr cb ctx => cases hb; exact (s.startTransfer_issued tr cb ctx (needsAsync_go hv).2).controlKept
  | xferWait => cases hb; exact .refl s
  | xferBlocking tr => cases hb; exact (s.blockingTransfer_issued tr (needsAsync_go hv).2).controlKept
  | invalid code => cases hb; exact .refl s
  | regwr reg vals => cases hb; exact (s.regwr_tframe reg vals).controlKept
  | endMark => cases hb; exact .refl s
  | cmd reg vals => cases hb; exact (s.bracket_tframe _).controlKept
  | colAddr first last => cases hb; exact (s.bracket_tframe _).controlKept
  | rowAddr first last => cases hb; exact (s.bracket_tframe _).controlKept
  | pixData pix => cases hb; exact (s.bracket_tframe _).controlKept
  | byte b => cases hb; exact (s.shiftByte_issued b).controlKept

/-- Every instruction but `DISP_INIT` and `SEND` leaves the control lines alone. -/
theorem exec_controlKept {i : Instr} {s t : State} (h : exec i s = .next t) (hinit : i ≠ .dispInit)
    (hsend : ∀ x y pix, i ≠ .send x y pix) : ControlKept s t := by
  rcases exec_next_cases h with rfl | ⟨hv, hb⟩ | ⟨c, rfl⟩
  · exact .refl _
  · exact bodyOf_controlKept hv hb hinit hsend
  · exact .recorded s c.code

/-- Settles O51: `DC` is one of the control lines. -/
theorem onlyDispInitAndSendWriteDc : Obligations.OnlyDispInitAndSendWriteDc := by
  intro i s t h hinit hsend
  obtain ⟨same, ev, ht, hev⟩ := exec_controlKept h hinit hsend
  refine ⟨same.dc, same.dcMode, fun e he => ?_⟩
  rw [appended, ht, List.drop_left] at he
  have hoff := hev e he
  simp only [Event.onControl, Bool.or_eq_false_iff] at hoff
  obtain ⟨⟨⟨hdc, -⟩, -⟩, -⟩ := hoff
  exact hdc

end Sys2Proof.Machine
end

section
/-! PROOFS. What a follower on the display's line hears (20_memory.md R76, 41_sequencer.md R166, R176, R178): one bracket for
each bracket the sequencer sends, with its bits in the order they cross the wire and `DC` as it then stands. -/

namespace Sys2Proof.Machine

/-- A follower of line `k` after it has listened to events. -/
def Follower.listen (k : Nat) (f : Follower) (evs : List Event) : Follower := evs.foldl (Follower.hear k) f

theorem Follower.listen_append (k : Nat) (f : Follower) (evs evs' : List Event) :
    f.listen k (evs ++ evs') = (f.listen k evs).listen k evs' := List.foldl_append

/-- What is heard of an operation is what its events let a follower hear. -/
theorem heard_of_trace {k : Nat} {s t : State} {evs : List Event} (h : t.trace = s.trace ++ evs) :
    heard k s t = ((Follower.listening s k).listen k evs).done := by
  rw [heard, appended, h, List.drop_left]
  rfl

/-! ### Inside a bracket -/

/-- The follower's line is at its asserted level, and clock and data-out are driven (R124). -/
structure Follower.Selected (f : Follower) : Prop where
  cs : f.cs = .level f.active
  sck : f.sck.dir = .output
  mosi : f.mosi.dir = .output

/-- From `f` to `g` a selected follower latched these bits and nothing else happened to it. -/
structure Follower.Latched (f g : Follower) (bits : List Latch) : Prop where
  selected : g.Selected
  active : g.active = f.active
  dc : g.dc = f.dc
  done : g.done = f.done
  now : g.now = { f.now with bits := f.now.bits ++ bits }

theorem Follower.Latched.trans {f g h : Follower} {bits bits' : List Latch} (a : f.Latched g bits)
    (b : g.Latched h bits') : f.Latched h (bits ++ bits') :=
  ⟨b.selected, b.active.trans a.active, b.dc.trans a.dc, b.done.trans a.done, by rw [b.now, a.now, List.append_assoc]⟩

/-- A bit time has one rising edge, at which data-out is at the bit (R76, R101). -/
theorem Follower.Selected.bitEvents {f : Follower} (h : f.Selected) (cfg : Config) (k : Nat) (b a : Bool) :
    f.Latched (f.listen k (bitEvents cfg b a)) [.level b] := by
  obtain ⟨hcs, hsck, hmosi⟩ := h
  have hlisten : f.listen k (Machine.bitEvents cfg b a) = { f with
      sck := { f.sck with lat := .level true }
      mosi := { f.mosi with lat := .level b }
      now := { f.now with bits := f.now.bits ++ [.level b] } } := by
    cases hm : cfg.hasMiso <;>
      simp [Follower.listen, Machine.bitEvents, hm, Follower.hear, hcs, hsck, hmosi, Pin.driven]
  rw [hlisten]
  exact ⟨⟨hcs, hsck, hmosi⟩, rfl, rfl, rfl, rfl⟩

theorem Follower.Selected.bitsEvents {f : Follower} (h : f.Selected) (cfg : Config) (k : Nat) {bs as : List Bool}
    (hlen : as.length = bs.length) : f.Latched (f.listen k (bitsEvents cfg bs as)) (bs.map .level) := by
  induction bs generalizing f as with
  | nil => exact ⟨h, rfl, rfl, rfl, by simp [Machine.bitsEvents, Follower.listen]⟩
  | cons b bs ih =>
    cases as with
    | nil => cases hlen
    | cons a as =>
      have first := h.bitEvents cfg k b a
      rw [Machine.bitsEvents, Follower.listen_append]
      exact first.trans (ih first.selected (Nat.succ.inj hlen))

/-- The bits of a byte string, each byte's most significant first (R65). -/
theorem Follower.Selected.bytesEvents {f : Follower} (h : f.Selected) (cfg : Config) (k : Nat) (buf : List Byte) (e : Env) :
    f.Latched (f.listen k (bytesEvents cfg buf e)) ((buf.flatMap byteBits).map .level) := by
  obtain ⟨as, hlen, has⟩ := bytesEvents_eq_bitsEvents cfg buf e
  rw [has]
  exact h.bitsEvents cfg k hlen

/-- At the release the follower is done with its bracket (R126). -/
theorem Follower.Selected.release {f : Follower} (h : f.Selected) {cfg : Config} (hactive : f.active = cfg.csActive)
    (k : Nat) :
    f.listen k (releaseEvents cfg k) = { f with
      sck := { f.sck with dir := .input }
      mosi := { f.mosi with dir := .input }
      cs := .level (!cfg.csActive)
      done := f.done ++ [f.now] } := by
  simp [Follower.listen, releaseEvents, Follower.hear, h.cs, hactive]

/-! ### Whole brackets -/

/-- Listening to `evs`, a follower of the display hears `hs`; after it `DC` is at `v`, and `CS_ACTIVE` still selects it. -/
structure Follower.Hears (cfg : Config) (f : Follower) (evs : List Event) (hs : List Heard) (v : Bool) : Prop where
  active : (f.listen cfg.csDisp evs).active = cfg.csActive
  dc : (f.listen cfg.csDisp evs).dc = .level v
  done : (f.listen cfg.csDisp evs).done = f.done ++ hs

section
variable {cfg : Config} {f : Follower} {evs evs' : List Event} {hs hs' : List Heard} {v w : Bool}

theorem Follower.hears_nothing (hactive : f.active = cfg.csActive) (hdc : f.dc = .level v) : f.Hears cfg [] [] v :=
  ⟨hactive, hdc, (List.append_nil _).symm⟩

theorem Follower.Hears.append (a : f.Hears cfg evs hs v) (b : (f.listen cfg.csDisp evs).Hears cfg evs' hs' w) :
    f.Hears cfg (evs ++ evs') (hs ++ hs') w := by
  obtain ⟨hactive, hdc, hdone⟩ := b
  rw [a.done, List.append_assoc] at hdone
  rw [← Follower.listen_append] at hactive hdc hdone
  exact ⟨hactive, hdc, hdone⟩

/-- Events that change nothing a follower listens to. -/
theorem Follower.Hears.silence (a : f.Hears cfg evs hs v) (h : ∀ g : Follower, g.listen cfg.csDisp evs' = g) :
    f.Hears cfg (evs ++ evs') hs v := by
  have b : (f.listen cfg.csDisp evs).Hears cfg evs' [] v :=
    ⟨by rw [h, a.active], by rw [h, a.dc], by rw [h, List.append_nil]⟩
  simpa using a.append b

/-- A write of `DC` between brackets (R176). -/
theorem Follower.Hears.setDc (a : f.Hears cfg evs hs v) (w : Bool) : f.Hears cfg (evs ++ [.set .dc w]) hs w := by
  have b : (f.listen cfg.csDisp evs).Hears cfg [.set .dc w] [] w := ⟨a.active, rfl, (List.append_nil _).symm⟩
  simpa using a.append b

/-- A bracket is heard as its bytes, at the level of `DC` (R161, R100). -/
theorem Follower.hears_bracket (hactive : f.active = cfg.csActive) (hdc : f.dc = .level v) (bytes : List Byte) (e : Env) :
    f.Hears cfg (bracketEvents cfg bytes e) [asHeard v bytes] v := by
  have hassert : f.listen cfg.csDisp (assertEvents cfg cfg.csDisp) = { f with
      sck := { dir := .output, lat := .level false }
      mosi := { dir := .output, lat := .level true }
      cs := .level cfg.csActive
      now := ⟨f.dc, []⟩ } := by
    simp [Follower.listen, assertEvents, Follower.hear, hactive]
  have selected : (f.listen cfg.csDisp (assertEvents cfg cfg.csDisp)).Selected := by
    rw [hassert]
    exact ⟨by rw [hactive], rfl, rfl⟩
  have bits := selected.bytesEvents cfg cfg.csDisp bytes e
  have hbits : _ = cfg.csActive := bits.active.trans (by rw [hassert, hactive])
  rw [bracketEvents]
  constructor <;> rw [Follower.listen_append, Follower.listen_append, bits.selected.release hbits]
  case active => exact hbits
  case dc => exact bits.dc.trans (by rw [hassert, hdc])
  case done =>
    dsimp only
    rw [bits.done, bits.now, hassert, hdc]
    rfl

theorem Follower.Hears.bracket (a : f.Hears cfg evs hs v) (bytes : List Byte) (e : Env) :
    f.Hears cfg (evs ++ bracketEvents cfg bytes e) (hs ++ [asHeard v bytes]) v :=
  a.append (Follower.hears_bracket a.active a.dc bytes e)

/-- A table's brackets are heard in table order (R164, R166). -/
theorem Follower.Hears.brackets (a : f.Hears cfg evs hs v) (records : List (List Byte)) (e : Env) :
    f.Hears cfg (evs ++ bracketsEvents cfg records e) (hs ++ records.map (asHeard v)) v := by
  induction records generalizing evs hs e with
  | nil => simpa [bracketsEvents] using a
  | cons wire rest ih =>
    have := ih (a.bracket wire e) (e.after (samplesPerByte cfg * wire.length))
    simpa [bracketsEvents] using this

end

/-- Bring-up steps 1 to 6 (R170) let a follower that is not selected hear nothing. -/
theorem Follower.hears_bringUp {cfg : Config} {f : Follower} (hactive : f.active = cfg.csActive)
    (hidle : f.cs ≠ .level cfg.csActive) : f.Hears cfg (bringUpEvents cfg) [] cfg.dcCmd := by
  constructor <;> cases hm : cfg.hasMiso <;> cases hg : cfg.hasPwrGnd <;>
    simp [Follower.listen, bringUpEvents, hm, hg, Follower.hear, hactive, hidle]

/-! ### The statements -/

/-- Settles O28: the events of `SEND` are three brackets, with a write of `DC` before and after the third. -/
theorem displayHearsSend : Obligations.DisplayHearsSend := by
  intro s x y pix hf hready hsel hidle hm hdc
  refine ⟨_, exec_send x y pix hf hready hsel hidle, ?_⟩
  rw [heard_of_trace (s.send_trace hm x y pix)]
  have start : (Follower.listening s s.cfg.csDisp).Hears s.cfg [] [] s.cfg.dcCmd := Follower.hears_nothing rfl hdc
  have window := (start.bracket [s.cfg.colAddrReg, x, s.cfg.colEnd] s.env).bracket [s.cfg.rowAddrReg, y, s.cfg.rowEnd]
    (s.env.after (samplesPerByte s.cfg * 3))
  have pixels := ((window.setDc s.cfg.dcData).bracket pix (s.env.after (samplesPerByte s.cfg * 6))).setDc s.cfg.dcCmd
  simpa [sendEvents, Follower.listening] using pixels.done

/-- Settles O29: the events of a table are its brackets. -/
theorem displayHearsTheTable : Obligations.DisplayHearsTheTable := by
  intro s records tail v h hr hdc
  refine ⟨_, h.exec_execTable hr tail, ?_⟩
  rw [heard_of_trace (s := s) (afterRecords_trace { s with tp := 0 } records)]
  have start : (Follower.listening s s.cfg.csDisp).Hears s.cfg [] [] v := Follower.hears_nothing rfl hdc
  exact (start.brackets records s.env).done

/-- Settles O30: bring-up parks the line and sets `DC`, and what follows the table but its bracket is silence. -/
theorem displayHearsBringUp : Obligations.DisplayHearsBringUp := by
  intro s records tail hf hsel hidle hinv hr htable
  refine ⟨_, exec_dispInit hr hf hsel hidle htable, ?_⟩
  rw [heard_of_trace (s.dispInit_trace hr)]
  have hcs : (s.pin (.cs s.cfg.csDisp)).lat ≠ .level s.cfg.csActive := fun h => by
    rw [hinv.low _ h] at hsel
    cases hsel
  have bringUp : (Follower.listening s s.cfg.csDisp).Hears s.cfg (bringUpEvents s.cfg) [] s.cfg.dcCmd :=
    Follower.hears_bringUp rfl hcs
  have rails := (bringUp.brackets records s.env).silence (evs' := [.set .pwrHv s.cfg.hvOn, .delay s.cfg.tHvSettle])
    fun _ => rfl
  have display := rails.bracket s.cfg.disponCmd
    (s.env.after (samplesPerByte s.cfg * (records.map List.length).sum))
  have last := display.silence (evs' := [.delay s.cfg.tDisponSettle]) fun _ => rfl
  simpa [dispInitEvents, Follower.listening] using last.done

end Sys2Proof.Machine
end

section
/-! PROOFS. The operations of ASYNC and what they come to (42_async.md R202, R203, R205, R206), and that ASYNC changes nothing on
the pins (R200). -/

namespace Sys2Proof.Machine

/-! ### The host operation of a transfer -/

/-- The `WRITE` or `READ` that a transfer request stands for (R202, R206). -/
def hostOp : Transfer → Instr
  | .write buf => .write buf
  | .read txByte n => .read txByte n

@[simp] theorem verdictOf_hostOp (t : Transfer) (s : State) : verdictOf (hostOp t) s = blockingVerdict t s := by
  cases t <;> rfl

@[simp] theorem bodyOf_hostOp (t : Transfer) (s : State) : bodyOf (hostOp t) s = some (s.transfer t) := by
  cases t <;> rfl

/-! ### The checks with ASYNC -/

theorem needsAsync_of_async {s : State} (h : s.cfg.hasAsync = true) (v : Verdict) : needsAsync v s = v := if_pos h

theorem inFlight_of_idle {s : State} (hb : s.busy = false) : s.inFlight = false := by
  simp [State.inFlight, hb]

/-- A transfer that may begin passes its checks, a `READ` where there is a data-in line. -/
theorem TransferReady.blockingVerdict {s : State} (h : TransferReady s) {t : Transfer}
    (hm : ∀ txByte n, t = .read txByte n → s.cfg.hasMiso = true) : blockingVerdict t s = .go := by
  cases t with
  | write buf => exact h.blockingVerdict_write buf
  | read txByte n => exact (blockingVerdict_read h.idle txByte n h.busReady h.bracket).trans (if_pos (hm txByte n rfl))

theorem TransferReady.exec_hostOp {s : State} (h : TransferReady s) {t : Transfer}
    (hm : ∀ txByte n, t = .read txByte n → s.cfg.hasMiso = true) : exec (hostOp t) s = .next (afterIssued s t) := by
  rw [← State.transfer_eq s t h.miso]
  exact exec_of_go h.clear ((verdictOf_hostOp t s).trans (h.blockingVerdict hm)) (bodyOf_hostOp t s)

section
variable {s : State} (h : TransferReady s) (ha : s.cfg.hasAsync = true) {t : Transfer}
  (hm : ∀ txByte n, t = .read txByte n → s.cfg.hasMiso = true)
include h ha hm

theorem TransferReady.xferVerdict : xferVerdict t s = .go :=
  (needsAsync_of_async ha _).trans (h.blockingVerdict hm)

theorem TransferReady.exec_xferStart (cb : Option Callback) (ctx : Context) :
    exec (.xferStart t cb ctx) s = .next (s.startTransfer t cb ctx) :=
  exec_of_go h.clear (h.xferVerdict ha hm) rfl

theorem TransferReady.exec_xferBlocking : exec (.xferBlocking t) s = .next (s.blockingTransfer t) :=
  exec_of_go h.clear (h.xferVerdict ha hm) rfl

end

/-! ### A transfer started -/

theorem callbackEvents_eq (cb : Option Callback) (ctx : Context) :
    callbackEvents cb ctx = if cb.isSome then [.callback ctx] else [] := by
  cases cb <;> rfl

/-- `XFER_START` by the first of its checks that fails (R202, R225). -/
theorem exec_xferStart_of_raise {s : State} {t : Transfer} {c : Cause} (hf : s.fault = false) (ha : s.cfg.hasAsync = true)
    (hv : blockingVerdict t s = .raise c) (cb : Option Callback) (ctx : Context) :
    exec (.xferStart t cb ctx) s = .next (recorded s c.code) :=
  exec_of_raise hf ((needsAsync_of_async ha _).trans hv)

/-- Settles O33: the closed form of the started transfer, and the first check that fails. -/
theorem xferStartResult : Obligations.XferStartResult := by
  intro s cb ctx ha
  refine ⟨fun h => ⟨fun buf => ?_, fun hm txByte n => ?_⟩, fun hf hb t => ⟨fun hbus => ?_, fun hbus hsel => ?_, ?_⟩⟩
  · rw [h.exec_xferStart ha (by simp), State.startTransfer_eq s _ cb ctx h.miso, ← callbackEvents_eq]
    rfl
  · rw [h.exec_xferStart ha fun _ _ _ => hm, State.startTransfer_eq s _ cb ctx h.miso, ← callbackEvents_eq]
    rfl
  · exact exec_xferStart_of_raise (c := .notInit) hf ha (blockingVerdict_of_not_ready (inFlight_of_idle hb) t hbus) cb ctx
  · exact exec_xferStart_of_raise (c := .noBracket) hf ha (blockingVerdict_of_free (inFlight_of_idle hb) t hbus hsel) cb ctx
  · rintro hbus hsel hm txByte n rfl
    have refused := blockingVerdict_read (inFlight_of_idle hb) txByte n hbus hsel
    exact exec_xferStart_of_raise (c := .noMiso) hf ha (refused.trans (by simp [hm])) cb ctx

/-- The bytes of a transfer leave `BUSY`, `CB` and `CTX` alone (R202). -/
theorem State.transferBytes_busy_cb_ctx (s : State) (t : Transfer) :
    (s.transferBytes t).busy = s.busy ∧ (s.transferBytes t).cb = s.cb ∧ (s.transferBytes t).ctx = s.ctx := by
  obtain ⟨tx, rx, bc, n, buf, env, rxbuf, ev, -, he⟩ := s.transferBytes_frame t
  rw [he]
  exact ⟨rfl, rfl, rfl⟩

/-- The end of a transfer that has a callback (R203). -/
theorem State.completeTransfer_of_callback {s : State} {c : Callback} (h : s.cb = some c) :
    s.completeTransfer = { s with trace := s.trace ++ [.callback s.ctx], busy := false } := by
  simp [State.completeTransfer, State.invokeCallback, h, State.endTransfer, State.emit]

/-- Settles O34: the bytes leave `CB` and `CTX` as the start wrote them, and the completion finds them so. -/
theorem callbackFollowsTheTransfer : Obligations.CallbackFollowsTheTransfer := by
  intro s t c ctx h ha hm
  obtain ⟨hbusy, hcb, hctx⟩ := (s.beginTransfer (some c) ctx).transferBytes_busy_cb_ctx t
  refine ⟨_, rfl, hbusy, hcb, hctx, ?_⟩
  rw [h.exec_xferStart ha hm, State.startTransfer, State.completeTransfer_of_callback hcb, hctx]
  rfl

/-! ### A blocking transfer -/

theorem State.blockingTransfer_eq (s : State) (t : Transfer) (h : MisoReleased s) :
    s.blockingTransfer t = afterBlocking s t := by
  rw [State.blockingTransfer, State.startTransfer_eq]
  · cases t <;> rfl
  · exact h

/-- What `XFER_BLOCKING` does beyond the start it is made of: the next free context is another (R206). -/
theorem afterStart_eq_afterBlocking (s : State) (t : Transfer) :
    afterStart s t none (Config.freeContext s.ctxIdx) = { afterBlocking s t with ctxIdx := s.ctxIdx } := by
  cases t <;> rfl

/-- Settles O35: with the free context it takes, the closed forms differ in the index of the next one only. -/
theorem xferBlockingResult : Obligations.XferBlockingResult := by
  intro s t h ha hm
  refine ⟨afterBlocking s t, Config.freeContext s.ctxIdx, ?_, ?_, rfl, rfl, rfl⟩
  · rw [h.exec_xferBlocking ha hm, State.blockingTransfer_eq s t h.miso]
  · rw [h.exec_xferStart ha hm, State.startTransfer_eq s t _ _ h.miso, afterStart_eq_afterBlocking]

/-- Instructions with the same checks and the same body answer the same. -/
theorem exec_congr {i j : Instr} {s : State} (hv : verdictOf i s = verdictOf j s) (hb : bodyOf i s = bodyOf j s) :
    exec i s = exec j s := by
  simp [exec_eq, operateTable, hv, hb]

theorem exec_hostOp_of_async {s : State} (ha : s.cfg.hasAsync = true) (t : Transfer) :
    exec (hostOp t) s = exec (.xferBlocking t) s :=
  exec_congr ((verdictOf_hostOp t s).trans (needsAsync_of_async ha _).symm)
    ((bodyOf_hostOp t s).trans (congrArg some (if_pos ha)))

/-- Settles O36: the same checks, and the same body once there is ASYNC. -/
theorem writesAndReadsAreBlockingTransfers : Obligations.WritesAndReadsAreBlockingTransfers :=
  fun _ ha => ⟨fun buf => exec_hostOp_of_async ha (.write buf), fun txByte n => exec_hostOp_of_async ha (.read txByte n)⟩

/-- Settles O37: no check fails and there is no body; and with a fault recorded nothing is done at all. -/
theorem xferWaitResult : Obligations.XferWaitResult := by
  intro s ha hb
  cases hf : s.fault with
  | true => exact operate_fault (xferWaitVerdict s) (fun s => s) s hf
  | false =>
    have passes : xferWaitVerdict s = .go := by
      rw [xferWaitVerdict, needsAsync_of_async ha, inFlight_of_idle hb, Verdict.afterHold_false]
    exact exec_of_go hf passes rfl

/-! ### The pins with and without ASYNC -/

/-- The same state on hardware with or without ASYNC. -/
def State.withAsync (s : State) (a : Bool) : State := { s with cfg := { s.cfg with hasAsync := a } }

section
variable (cfg : Config) (a : Bool)

theorem bytesEvents_withAsync (buf : List Byte) (e : Env) :
    bytesEvents { cfg with hasAsync := a } buf e = bytesEvents cfg buf e := by
  induction buf generalizing e with
  | nil => rfl
  | cons b rest ih => rw [bytesEvents, ih]; rfl

theorem readEvents_withAsync (txByte : Byte) (j n : Nat) (e : Env) :
    readEvents { cfg with hasAsync := a } txByte j n e = readEvents cfg txByte j n e := by
  induction n generalizing j e with
  | zero => rfl
  | succ n ih => rw [readEvents, ih]; rfl

theorem receivedBytes_withAsync (n : Nat) (e : Env) :
    receivedBytes { cfg with hasAsync := a } n e = receivedBytes cfg n e := by
  induction n generalizing e with
  | zero => rfl
  | succ n ih => rw [receivedBytes, ih]; rfl

end

/-- The bytes of a transfer are the same with and without ASYNC (R200). -/
theorem afterTransfer_withAsync (s : State) (a : Bool) (t : Transfer) :
    afterTransfer (s.withAsync a) t = (afterTransfer s t).withAsync a := by
  cases t with
  | write buf =>
    simp only [afterTransfer, afterBytes, State.withAsync, bytesEvents_withAsync]
    rfl
  | read txByte n =>
    simp only [afterTransfer, afterRead, afterBytes, State.withAsync, readEvents_withAsync, receivedBytes_withAsync]
    rfl

theorem TransferReady.withAsync {s : State} (h : TransferReady s) (hb : s.busy = false) (a : Bool) :
    TransferReady (s.withAsync a) :=
  ⟨h.clear, h.busReady, h.bracket, inFlight_of_idle hb, h.miso⟩

/-- With ASYNC an issued transfer is its bytes, and then writes of `BUSY`, `CB`, `CTX` and the next context's index (R206). -/
theorem afterIssued_withAsync_true (s : State) (t : Transfer) :
    afterIssued (s.withAsync true) t =
      { afterTransfer s t with
        cfg := (s.withAsync true).cfg, busy := false, cb := none, ctx := Config.freeContext s.ctxIdx
        ctxIdx := s.ctxIdx + 1 } := by
  have issued : afterIssued (s.withAsync true) t = afterBlocking (s.withAsync true) t := rfl
  rw [issued, afterBlocking, afterStart, afterTransfer_withAsync, callbackEvents, List.append_nil]
  cases t <;> rfl

theorem afterIssued_withAsync_false (s : State) (t : Transfer) :
    afterIssued (s.withAsync false) t = (afterTransfer s t).withAsync false :=
  afterTransfer_withAsync s false t

/-- Settles O40: with and without ASYNC an issued transfer is its bytes, as far as the pins tell. -/
theorem asyncChangesNothingOnThePins : Obligations.AsyncChangesNothingOnThePins := by
  intro s i h hb hi
  obtain ⟨t, rfl, hm⟩ : ∃ t : Transfer, i = hostOp t ∧ ∀ txByte n, t = .read txByte n → s.cfg.hasMiso = true := by
    rcases hi with ⟨buf, rfl⟩ | ⟨hm, txByte, n, rfl⟩
    · exact ⟨.write buf, rfl, by simp⟩
    · exact ⟨.read txByte n, rfl, fun _ _ _ => hm⟩
  refine ⟨_, _, (h.withAsync hb true).exec_hostOp hm, (h.withAsync hb false).exec_hostOp hm, ?_⟩
  rw [afterIssued_withAsync_true, afterIssued_withAsync_false]
  exact ⟨rfl, rfl, rfl, rfl, rfl, rfl⟩

end Sys2Proof.Machine
end

section
/-! PROOFS. What holds while a transfer is in flight (42_async.md R204): the transfers at once, the sequencer's operations once
their checks have passed. -/

namespace Sys2Proof.Machine

/-! ### Checks that answer a hold -/

theorem inFlight_of_busy {s : State} (ha : s.cfg.hasAsync = true) (hb : s.busy = true) : s.inFlight = true := by
  simp [State.inFlight, ha, hb]

@[simp] theorem Verdict.afterHold_true (v : Verdict) : v.afterHold true = .hold := rfl

@[simp] theorem Verdict.beforeHold_go_true : Verdict.go.beforeHold true = .hold := rfl

theorem exec_of_hold {i : Instr} {s : State} (hv : verdictOf i s = .hold) : exec i s = .next s := by
  simp [exec_eq, operateTable, hv]

/-- An operation that holds stays to be issued, and the machine stays as it is (R204). -/
theorem step_of_hold {i : Instr} {s : State} {rest : List Input} (hc : configAccepted s.cfg = true)
    (hf : s.fault = false) (hfetch : s.fetch = .run i rest) (hv : verdictOf i s = .hold) : step s = .next s := by
  simp [step, hc, hfetch, holds, hf, hv]

section
variable {s : State} (hheld : s.inFlight = true)
include hheld

theorem blockingVerdict_of_inFlight (t : Transfer) : blockingVerdict t s = .hold := by
  rw [blockingVerdict, hheld, Verdict.afterHold_true]

theorem xferVerdict_of_inFlight (ha : s.cfg.hasAsync = true) (t : Transfer) : xferVerdict t s = .hold :=
  (needsAsync_of_async ha _).trans (blockingVerdict_of_inFlight hheld t)

theorem xferWaitVerdict_of_inFlight (ha : s.cfg.hasAsync = true) : xferWaitVerdict s = .hold := by
  rw [xferWaitVerdict, needsAsync_of_async ha, hheld, Verdict.afterHold_true]

variable (hsel : s.sel = none)
include hsel

theorem dispInitVerdict_of_inFlight (hgood : tableWellFormed s.cfg.configTable = true) : dispInitVerdict s = .hold := by
  simp [dispInitVerdict, busHeld_eq_false_iff.2 hsel, hgood, hheld]

theorem sendVerdict_of_inFlight (hready : s.dispReady = true) : sendVerdict s = .hold := by
  simp [sendVerdict, hready, busHeld_eq_false_iff.2 hsel, hheld]

variable (hbus : s.busReady = true) (hready : s.isCsReady s.cfg.csDisp = true)
include hbus hready

theorem bracketVerdict_of_inFlight (hk : s.cfg.csDisp < s.cfg.nCs) : bracketVerdict s = .hold := by
  simp [bracketVerdict, csAssertVerdict, badCs_eq_false_iff.2 hk, hbus, hready, busHeld_eq_false_iff.2 hsel, hheld]

theorem execTableVerdict_of_inFlight {len : Byte} {more : List Byte} (hne : len ≠ 0)
    (hgood : tableWellFormed (len :: more) = true) : execTableVerdict (len :: more) s = .hold := by
  have first : ((len :: more).head? != some 0) = true := bne_iff_ne.2 (by simpa using hne)
  rw [execTableVerdict, hheld, first]
  simp [hbus, hready, busHeld_eq_false_iff.2 hsel, hgood]

end

/-- Settles O38: each of the five makes its hold before its checks. -/
theorem transfersHoldWhileBusy : Obligations.TransfersHoldWhileBusy := by
  intro s i rest hc hf ha hb hfetch hi
  have hheld := inFlight_of_busy ha hb
  have hv : verdictOf i s = .hold := by
    rcases hi with ⟨buf, rfl⟩ | ⟨txByte, n, rfl⟩ | ⟨t, cb, ctx, rfl⟩ | rfl | ⟨t, rfl⟩
    · exact blockingVerdict_of_inFlight hheld _
    · exact blockingVerdict_of_inFlight hheld _
    · exact xferVerdict_of_inFlight hheld ha t
    · exact xferWaitVerdict_of_inFlight hheld ha
    · exact xferVerdict_of_inFlight hheld ha t
  exact ⟨step_of_hold hc hf hfetch hv, exec_of_hold hv⟩

/-- Settles O39: each of the eight passes its checks and then holds. -/
theorem bracketsHoldWhileBusy : Obligations.BracketsHoldWhileBusy := by
  intro s i rest hc hf ha hb hsel hbus hready hfetch hi
  have hheld := inFlight_of_busy ha hb
  have bracket := bracketVerdict_of_inFlight hheld hsel hbus hready (configAccepted_csDisp hc)
  have hv : verdictOf i s = .hold := by
    rcases hi with ⟨len, more, rfl, hne, hgood⟩ | ⟨rfl, hgood⟩ | ⟨x, y, pix, rfl, hdisp⟩ | ⟨reg, vals, rfl⟩ |
      ⟨reg, vals, rfl⟩ | ⟨a, b, rfl⟩ | ⟨a, b, rfl⟩ | ⟨pix, rfl⟩
    · exact execTableVerdict_of_inFlight hheld hsel hbus hready hne hgood
    · exact dispInitVerdict_of_inFlight hheld hsel hgood
    · exact sendVerdict_of_inFlight hheld hsel hdisp
    all_goals exact bracket
  exact ⟨step_of_hold hc hf hfetch hv, exec_of_hold hv⟩

end Sys2Proof.Machine
end

section
/-! PROOFS. Faults (60_exceptions.md R226, R227): the body of an operation leaves the fault flag as it was, so a fault comes from
the checks alone; once recorded it stops every operation; only reset clears it (70_reset_and_hazards.md R260). -/

namespace Sys2Proof.Machine

/-! ### No body records a fault -/

theorem IssuedFrame.fault {s t : State} (f : IssuedFrame s t) : t.fault = s.fault := by
  obtain ⟨tx, rx, bc, n, buf, env, rxbuf, ev, cb, ctx, ci, busy, -, rfl⟩ := f.same
  rfl

theorem TableFrame.fault {s t : State} (f : TableFrame s t) : t.fault = s.fault := f.sequencerFrame.fault

theorem State.busInit_fault (s : State) : s.busInit.fault = s.fault := by rw [State.busInit_eq]

theorem State.dispInit_sequencerFrame {s t : State} (h : s.dispInit = some t) : SequencerFrame s t := by
  rw [State.dispInit_eq] at h
  obtain ⟨u, hu, rfl⟩ := Option.map_eq_some_iff.1 h
  exact s.bringUp_sequencerFrame.trans <| (State.execTable_tframe hu).sequencerFrame.trans u.lightUp_sequencerFrame

theorem bodyOf_fault {i : Instr} {s t : State} (hv : verdictOf i s = .go) (hb : bodyOf i s = some t) :
    t.fault = s.fault := by
  cases i with
  | execTable table => exact (State.execTable_tframe hb).fault
  | dispInit => exact (State.dispInit_sequencerFrame hb).fault
  | busInit => cases hb; exact s.busInit_fault
  | csInit k => cases hb; rfl
  | csAssert k => cases hb; exact s.csAssert_fault k
  | csRelease k => cases hb; exact s.csRelease_fault k
  | write buf => cases hb; exact (s.transfer_issued _).fault
  | read txByte n => cases hb; exact (s.transfer_issued _).fault
  | send x y pix => cases hb; exact (s.send_sequencerFrame x y pix).fault
  | xferStart tr cb ctx => cases hb; exact (s.startTransfer_issued tr cb ctx (needsAsync_go hv).2).fault
  | xferBlocking tr => cases hb; exact (s.blockingTransfer_issued tr (needsAsync_go hv).2).fault
  | byte b => cases hb; exact (s.shiftByte_issued b).fault
  | regwr reg vals => cases hb; exact (s.regwr_tframe reg vals).fault
  | cmd | colAddr | rowAddr | pixData => cases hb; exact (s.bracket_tframe _).fault
  | xferWait | invalid | endMark => cases hb; rfl

/-- Settles O42: doing nothing and running the body both leave the flag clear, which leaves recording a cause. -/
theorem faultsArePrecise : Obligations.FaultsArePrecise := by
  intro i s t hf h ht
  rcases exec_next_cases h with rfl | ⟨hv, hb⟩ | hrecorded
  · exact absurd ht (by simp [hf])
  · exact absurd ht (by simp [bodyOf_fault hv hb, hf])
  · exact hrecorded

/-! ### A recorded fault stops every operation -/

theorem exec_of_fault {s : State} (hf : s.fault = true) (i : Instr) : exec i s = .next s := by
  simp [exec_eq, operateTable, hf]

theorem holds_of_fault {s : State} (hf : s.fault = true) (i : Instr) : holds i s = false := by
  simp [holds, hf]

theorem step_of_run {s : State} {i : Instr} {rest : List Input} (hc : configAccepted s.cfg = true)
    (hfetch : s.fetch = .run i rest) (hh : holds i s = false) : step s = exec i { s with program := rest } := by
  simp [step, hc, hfetch, hh]

theorem step_of_reset {s : State} {rest : List Input} (hc : configAccepted s.cfg = true)
    (hp : s.program = .reset :: rest) (hsel : s.sel = none) :
    step s = .next (State.applyReset { s with program := rest }) := by
  simp [step, hc, State.fetch, hp, resetEvent, busHeld_eq_false_iff.2 hsel]

/-- Settles O43: no operation runs and none holds, so a step takes it off the program; the reset state has no fault. -/
theorem faultsAreSticky : Obligations.FaultsAreSticky := by
  intro s hf
  refine ⟨exec_of_fault hf, fun i rest hc hfetch => ?_, fun rest hc hp hsel => ⟨_, step_of_reset hc hp hsel, rfl⟩⟩
  rw [step_of_run hc hfetch (holds_of_fault hf i)]
  exact exec_of_fault (s := { s with program := rest }) hf i

end Sys2Proof.Machine
end

section
/-! PROOFS. The delays of a bracket (70_reset_and_hazards.md R282): one when it opens (40_transport.md R124), two in each bit time
(R128), none when it closes (R126). -/

namespace Sys2Proof.Machine

theorem totalDelay_append (l m : List Event) : totalDelay (l ++ m) = totalDelay l + totalDelay m := by
  induction l with
  | nil => simp [totalDelay]
  | cons e l ih => cases e <;> simp [totalDelay, ih, Nat.add_assoc]

section
variable (cfg : Config)

theorem totalDelay_bitEvents (b a : Bool) : totalDelay (bitEvents cfg b a) = 2 * cfg.tHalf := by
  cases hm : cfg.hasMiso <;> simp [bitEvents, hm, totalDelay, Nat.two_mul]

theorem totalDelay_bitsEvents {bs as : List Bool} (h : as.length = bs.length) :
    totalDelay (bitsEvents cfg bs as) = bs.length * (2 * cfg.tHalf) := by
  induction bs generalizing as with
  | nil => simp [bitsEvents, totalDelay]
  | cons b bs ih =>
    cases as with
    | nil => cases h
    | cons a as =>
      rw [bitsEvents, totalDelay_append, totalDelay_bitEvents, ih (Nat.succ.inj h), List.length_cons]
      ring

theorem totalDelay_bytesEvents (buf : List Byte) (e : Env) :
    totalDelay (bytesEvents cfg buf e) = 16 * buf.length * cfg.tHalf := by
  obtain ⟨as, hlen, has⟩ := bytesEvents_eq_bitsEvents cfg buf e
  rw [has, totalDelay_bitsEvents cfg hlen, length_flatMap_byteBits]
  ring

/-- The least time of a bracket (R282). -/
theorem totalDelay_bracketEvents (bytes : List Byte) (e : Env) :
    totalDelay (bracketEvents cfg bytes e) = cfg.tCsSetup + 16 * bytes.length * cfg.tHalf := by
  have opening : totalDelay (assertEvents cfg cfg.csDisp) = cfg.tCsSetup := rfl
  have closing : totalDelay (releaseEvents cfg cfg.csDisp) = 0 := rfl
  rw [bracketEvents, totalDelay_append, totalDelay_append, opening, totalDelay_bytesEvents, closing, Nat.add_zero]

end

/-- Settles O32: the command is one bracket, and its events' delays are summed part by part. -/
theorem bracketDuration : Obligations.BracketDuration := by
  intro s reg vals h
  refine ⟨s.bracket (reg :: vals), exec_of_go h.clear h.bracketVerdict rfl, ?_⟩
  rw [appended, State.bracket_trace h.miso, List.drop_left]
  exact totalDelay_bracketEvents s.cfg (reg :: vals) s.env

end Sys2Proof.Machine
end

section
/-! PROOFS. The display's reset line and the power lines (70_reset_and_hazards.md R263, 41_sequencer.md R179): `SEND` writes `DC`
besides its brackets and nothing else of the panel, and the other instructions leave every control line alone. -/

namespace Sys2Proof.Machine

/-- From `s` to `t` the reset line, the power lines and what is recorded of them stay, and every new event is off them. -/
structure PowerKept (s t : State) : Prop where
  res : t.pins.res = s.pins.res
  pwrGnd : t.pins.pwrGnd = s.pins.pwrGnd
  pwrHv : t.pins.pwrHv = s.pins.pwrHv
  rail : t.session.rail = s.session.rail
  resetLine : t.session.resetLine = s.session.resetLine
  phase : t.session.phase = s.session.phase
  dispReady : t.dispReady = s.dispReady
  trace : ∃ ev, t.trace = s.trace ++ ev ∧
    ∀ e ∈ ev, e.onLine .res = false ∧ e.onLine .pwrGnd = false ∧ e.onLine .pwrHv = false

theorem PowerKept.trans {s t u : State} (a : PowerKept s t) (b : PowerKept t u) : PowerKept s u := by
  obtain ⟨ev, ha, hev⟩ := a.trace
  obtain ⟨ev', hb, hev'⟩ := b.trace
  refine ⟨b.res.trans a.res, b.pwrGnd.trans a.pwrGnd, b.pwrHv.trans a.pwrHv, b.rail.trans a.rail,
    b.resetLine.trans a.resetLine, b.phase.trans a.phase, b.dispReady.trans a.dispReady, ev ++ ev',
    by rw [hb, ha, List.append_assoc], ?_⟩
  intro e he
  rcases List.mem_append.1 he with he | he
  · exact hev e he
  · exact hev' e he

/-- The reset line and the power lines are control lines. -/
theorem ControlKept.powerKept {s t : State} (f : ControlKept s t) : PowerKept s t := by
  obtain ⟨same, ev, ht, hev⟩ := f
  refine ⟨same.res, same.pwrGnd, same.pwrHv, same.rail, same.resetLine, same.phase, same.dispReady, ev, ht,
    fun e he => ?_⟩
  have hoff := hev e he
  simp only [Event.onControl, Bool.or_eq_false_iff] at hoff
  obtain ⟨⟨⟨-, hres⟩, hgnd⟩, hhv⟩ := hoff
  exact ⟨hres, hgnd, hhv⟩

theorem PowerKept.setDc (s : State) (v : Bool) (mode : DcMode) : PowerKept s (s.setDc v mode) :=
  ⟨rfl, rfl, rfl, rfl, rfl, rfl, rfl, _, rfl, by simp [Event.onLine]⟩

theorem PowerKept.setWin (s : State) (win : Option Window) :
    PowerKept s { s with session := { s.session with win := win } } :=
  ⟨rfl, rfl, rfl, rfl, rfl, rfl, rfl, [], by simp, by simp⟩

/-- `SEND` is brackets, the window recorded, and writes of `DC` (R176). -/
theorem State.send_powerKept (s : State) (x y : Byte) (pix : List Byte) : PowerKept s (s.send x y pix) := by
  obtain ⟨u, win, v, window, pixels, he⟩ := s.send_frames x y pix
  rw [he]
  exact window.controlKept.powerKept.trans <| (PowerKept.setWin u win).trans <| (PowerKept.setDc _ _ _).trans <|
    pixels.controlKept.powerKept.trans (.setDc v _ _)

theorem bodyOf_powerKept {i : Instr} {s t : State} (hv : verdictOf i s = .go) (hb : bodyOf i s = some t)
    (hinit : i ≠ .dispInit) : PowerKept s t := by
  cases i with
  | send x y pix => cases hb; exact s.send_powerKept x y pix
  | _ => exact (bodyOf_controlKept hv hb hinit nofun).powerKept

theorem exec_powerKept {i : Instr} {s t : State} (h : exec i s = .next t) (hinit : i ≠ .dispInit) : PowerKept s t := by
  rcases exec_next_cases h with rfl | ⟨hv, hb⟩ | ⟨c, rfl⟩
  · exact (ControlKept.refl _).powerKept
  · exact bodyOf_powerKept hv hb hinit
  · exact (ControlKept.recorded s c.code).powerKept

/-- Settles O52, from what every instruction but `DISP_INIT` keeps of the panel. -/
theorem onlyDispInitDrivesResetAndPower : Obligations.OnlyDispInitDrivesResetAndPower := by
  intro i s t h hinit
  obtain ⟨hres, hgnd, hhv, hrail, hline, hphase, hready, ev, ht, hev⟩ := exec_powerKept h hinit
  refine ⟨hres, hgnd, hhv, hrail, hline, hphase, hready, ?_⟩
  rwa [appended, ht, List.drop_left]

end Sys2Proof.Machine
end

section
/-! PROOFS. The reset event and the ends of a step (70_reset_and_hazards.md R260, R261, R264): a step answers, or is refused for
one of three reasons. -/

namespace Sys2Proof.Machine

section
variable {s : State} (hc : configAccepted s.cfg = true)
include hc

theorem step_of_reset_held {rest : List Input} (hp : s.program = .reset :: rest) (hsel : s.sel ≠ none) :
    step s = .refused .resetInOpenBracket := by
  simp [step, hc, State.fetch, hp, resetEvent, busHeld_eq_true_iff.2 hsel]

theorem step_of_undecodable {e : Encoded} {rest : List Input} {err : DecodeError} (hp : s.program = .op e :: rest)
    (hd : decode s.cfg e = .error err) : step s = .refused (.undecodable err) := by
  simp [step, hc, State.fetch, hp, hd]

/-- An operation that decodes has a step, held or not. -/
theorem step_of_op {e : Encoded} {i : Instr} {rest : List Input} (hp : s.program = .op e :: rest)
    (hd : decode s.cfg e = .ok i) : ∃ t, step s = .next t := by
  obtain ⟨hrun, hhold, -⟩ := stepRunsTheDecodedInstruction s hc
  cases hh : holds i s with
  | true => exact ⟨s, hhold e i rest hp hd hh⟩
  | false =>
    obtain ⟨t, ht⟩ := everyInstructionAnswers i { s with program := rest }
    exact ⟨t, (hrun e i rest hp hd hh).trans ht⟩

end

theorem step_of_badConfiguration {s : State} (hc : configAccepted s.cfg = false) :
    step s = .refused .badConfiguration := by
  simp [step, hc]

/-- Settles O2: the reset's next state outside a bracket, its refusal inside one. -/
theorem resetEventResult : Obligations.ResetEventResult :=
  fun _ _ hc hp => ⟨step_of_reset hc hp, step_of_reset_held hc hp⟩

/-- Why a step is refused. -/
def RefusedFor (s : State) (r : Refusal) : Prop :=
  (r = .badConfiguration ∧ configAccepted s.cfg = false) ∨
  (r = .resetInOpenBracket ∧ s.sel ≠ none ∧ ∃ rest, s.program = .reset :: rest) ∨
  (∃ err e rest, r = .undecodable err ∧ s.program = .op e :: rest ∧ decode s.cfg e = .error err)

/-- All that a step can come to. -/
theorem step_next_or_refused (s : State) : (∃ t, step s = .next t) ∨ ∃ r, step s = .refused r ∧ RefusedFor s r := by
  cases hc : configAccepted s.cfg with
  | false => exact .inr ⟨_, step_of_badConfiguration hc, .inl ⟨rfl, hc⟩⟩
  | true =>
    obtain ⟨-, -, idle⟩ := stepRunsTheDecodedInstruction s hc
    rcases hp : s.program with _ | ⟨e | _, rest⟩
    case nil => exact .inl ⟨s, idle hp⟩
    case cons.op =>
      cases hd : decode s.cfg e with
      | ok i => exact .inl (step_of_op hc hp hd)
      | error err => exact .inr ⟨_, step_of_undecodable hc hp hd, .inr (.inr ⟨err, e, rest, rfl, hp, hd⟩)⟩
    case cons.reset =>
      by_cases hsel : s.sel = none
      · exact .inl ⟨_, step_of_reset hc hp hsel⟩
      · exact .inr ⟨_, step_of_reset_held hc hp hsel, .inr (.inl ⟨rfl, hsel, rest, hp⟩)⟩

/-- Settles O59: a step that answers is no fault and no refusal, and a refused one has the reason it was refused for. -/
theorem whatStopsAStep : Obligations.WhatStopsAStep := by
  intro s
  rcases step_next_or_refused s with ⟨t, ht⟩ | ⟨r, hr, reason⟩
  · simp [ht]
  · refine ⟨by simp [hr], fun r' hr' => ?_⟩
    obtain rfl : r = r' := by simpa [hr] using hr'
    exact reason

end Sys2Proof.Machine
end
